-- ==== Sys2Proof/Word.lean ====
section
/-! DEFINITION. The widths the specification names: a byte (R11), the 32-bit command word (R85), the 64-bit
response register and its 48-bit data field (R22), the raw pattern of one axis (R45). -/

namespace Sys2Proof

/-- A byte of the sensor register space; "A *byte* is 8 bits" (R11). -/
abbrev Byte := BitVec 8

/-- A command word (R85). -/
abbrev Word := BitVec 32

/-- The data field `RESP[47:0]` (R22). -/
abbrev RespData := BitVec 48

/-- The raw 16-bit pattern of one axis (R45). -/
abbrev AxisWord := BitVec 16

end Sys2Proof
end

