-- ==== Sys2Proof/Config.lean ====
section
/-! DEFINITION. The deployment parameters (R6 to R9) as one record of plain data, their default values, and the
values the specification leaves open (U4, U5) as constants without a body.

No parameter is a global constant: a machine state carries the record it was deployed with (`State.params`), no
step writes it (R200), and a claim about every state is therefore a claim about every parameter assignment, as
rule R9 asks ("every claim must hold for every admissible value"). notes/assumptions/1.md. -/

namespace Sys2Proof

/-- The four full-scale ranges, ±2g to ±16g (R8). -/
inductive FsRange where
  | g2 | g4 | g8 | g16
  deriving DecidableEq, Repr

/-- The five modes of the accelerometer and of the gyroscope (R8). -/
inductive Mode where
  | pd | lp | n104 | n208 | p416
  deriving DecidableEq, Repr

/-- `STRATEGY` (R9). -/
inductive Strategy where
  | polling | interrupt
  deriving DecidableEq, Repr

/-- `PULSE_IMPL` (R9). -/
inductive PulseImpl where
  | deadline | blocking
  deriving DecidableEq, Repr

/-- `TIE_RULE` (R9): what `round` does at an exact half (R12). -/
inductive TieRule where
  | halfEven | halfUp
  deriving DecidableEq, Repr

/-- The parameters of one deployment (R6 to R9). A mask and its shift are two entries, as rule R7 names them;
that they agree is part of `Params.admissible`. -/
structure Params where
  /-- `DEV_ADDR` (R6). -/
  devAddr : BitVec 7
  /-- `A_XL_CTRL` (R6). -/
  aXlCtrl : Byte
  /-- `A_G_CTRL` (R6). -/
  aGCtrl : Byte
  /-- `A_STATUS` (R6). -/
  aStatus : Byte
  /-- `A_OUT_XL`, the base of the six data bytes (R6). -/
  aOutXl : Byte
  /-- `A_WK_SRC` (R6). -/
  aWkSrc : Byte
  /-- `A_WK_THS` (R6). -/
  aWkThs : Byte
  /-- `A_WK_DUR` (R6). -/
  aWkDur : Byte
  /-- `A_INT_CFG` (R6). -/
  aIntCfg : Byte
  /-- `A_INT_ROUTE` (R6). -/
  aIntRoute : Byte
  /-- `M_MODE` (R7). -/
  mMode : Byte
  /-- `S_MODE` (R7). -/
  sMode : Fin 8
  /-- `M_FS` (R7). -/
  mFs : Byte
  /-- `S_FS` (R7). -/
  sFs : Fin 8
  /-- `M_THS` (R7). -/
  mThs : Byte
  /-- `S_THS` (R7). -/
  sThs : Fin 8
  /-- `M_DUR` (R7). -/
  mDur : Byte
  /-- `S_DUR` (R7). -/
  sDur : Fin 8
  /-- `B_INT_EN` (R7). -/
  bIntEn : Fin 8
  /-- `B_HP_SEL` (R7). -/
  bHpSel : Fin 8
  /-- `B_ROUTE` (R7). -/
  bRoute : Fin 8
  /-- `B_WU_IA` (R7). -/
  bWuIa : Fin 8
  /-- `B_X_WU` (R7). -/
  bXWu : Fin 8
  /-- `B_Y_WU` (R7). -/
  bYWu : Fin 8
  /-- `B_Z_WU` (R7). -/
  bZWu : Fin 8
  /-- `MODE_CODE(PD)` (R8). -/
  codePd : BitVec 4
  /-- `MODE_CODE(LP)` (R8). -/
  codeLp : BitVec 4
  /-- `MODE_CODE(N104)` (R8). -/
  codeN104 : BitVec 4
  /-- `MODE_CODE(N208)` (R8). -/
  codeN208 : BitVec 4
  /-- `MODE_CODE(P416)` (R8). -/
  codeP416 : BitVec 4
  /-- `FS_CODE(2)` (R8). -/
  codeG2 : BitVec 2
  /-- `FS_CODE(4)` (R8). -/
  codeG4 : BitVec 2
  /-- `FS_CODE(8)` (R8). -/
  codeG8 : BitVec 2
  /-- `FS_CODE(16)` (R8). -/
  codeG16 : BitVec 2
  /-- `STRATEGY` (R9). -/
  strategy : Strategy
  /-- `PULSE_IMPL` (R9). -/
  pulseImpl : PulseImpl
  /-- `DURATION_MS` (R9). -/
  durationMs : Nat
  /-- `THRESHOLD` (R9). -/
  threshold : Nat
  /-- `IDLE_TIMEOUT_MS` (R9). -/
  idleTimeoutMs : Nat
  /-- `IDLE_WAKES_ON_IRQ` (R9). -/
  idleWakesOnIrq : Bool
  /-- `N_ONBOARD` (R9). -/
  nOnboard : Nat
  /-- `WAKE_SRC_READ_CLEARS` (R9). -/
  wakeSrcReadClears : Bool
  /-- `TIE_RULE` (R9). -/
  tieRule : TieRule
  /-- `FS_RESET` (R9). -/
  fsReset : FsRange
  deriving DecidableEq, Repr

/-- The defaults of rules R6 to R9. For the parameters rule R9 marks OPEN the specification gives no default:
`strategy`, `pulseImpl`, `durationMs`, `wakeSrcReadClears` and `tieRule` here are a DESIGN CHOICE (unsafe for a
claim about `State.reset` alone), `threshold` and `idleTimeoutMs` are the source's example values.
notes/assumptions/2.md. -/
def Params.default : Params where
  devAddr := 0x6A#7
  aXlCtrl := 0x10#8
  aGCtrl := 0x11#8
  aStatus := 0x1E#8
  aOutXl := 0x28#8
  aWkSrc := 0x1B#8
  aWkThs := 0x5B#8
  aWkDur := 0x5C#8
  aIntCfg := 0x58#8
  aIntRoute := 0x5E#8
  mMode := 0xF0#8
  sMode := 4
  mFs := 0x0C#8
  sFs := 2
  mThs := 0x3F#8
  sThs := 0
  mDur := 0x60#8
  sDur := 5
  bIntEn := 7
  bHpSel := 4
  bRoute := 5
  bWuIa := 3
  bXWu := 2
  bYWu := 1
  bZWu := 0
  codePd := 0x0#4
  codeLp := 0x1#4
  codeN104 := 0x4#4
  codeN208 := 0x5#4
  codeP416 := 0x6#4
  codeG2 := 0b00#2
  codeG4 := 0b10#2
  codeG8 := 0b11#2
  codeG16 := 0b01#2
  strategy := .interrupt
  pulseImpl := .deadline
  durationMs := 100
  threshold := 10000
  idleTimeoutMs := 10000
  idleWakesOnIrq := true
  nOnboard := 3
  wakeSrcReadClears := false
  tieRule := .halfEven
  fsReset := .g2

/-- FREE VALUE (U4): the byte a register holds after a failed write is "any byte" (R67). No body, so nothing can
be proved of its values; applied to `State.freeCount`. notes/assumptions/5.md. -/
opaque Config.freeByte : Nat → Byte

/-- FREE VALUE (U5): whether a failed read of `WK_SRC` had its clearing side effect is "unspecified (either)"
(R66). No body; applied to `State.freeCount`. notes/assumptions/5.md. -/
opaque Config.freeClear : Nat → Bool

end Sys2Proof
end

