-- ==== Sys2Proof/Syntax.lean ====
section
/-! DEFINITION. The command set: one constructor per row of spec/opcode_table.json (R89), with the operand fields
of its format (R86, R88). -/

namespace Sys2Proof

/-- A command. Fields keep the width rule R86 gives them, so a legal but out-of-range word (R93) is a value of
this type too; `Instr.wf` tells the two apart. `fs`, `hp` and `en` have no out-of-range value and are decoded. -/
inductive Instr where
  /-- REGRD `addr, len` (R110). -/
  | regrd (addr len : Byte)
  /-- REGWR `addr, data` (R111). -/
  | regwr (addr data : Byte)
  /-- REGRMW `addr, mask, value` (R112). -/
  | regrmw (addr mask value : Byte)
  /-- CFGMODE `amode, gmode` (R120): two mode indices, 0..4 in range. -/
  | cfgmode (amode gmode : BitVec 4)
  /-- SETFS `g` (R121). -/
  | setfs (g : FsRange)
  /-- SETWKTHS `mg, samples, hp` (R122); `dur` is `samples - 1` (R88). -/
  | setwkths (thr : BitVec 16) (hp : Bool) (dur : BitVec 2)
  /-- WKINT `en` (R125). -/
  | wkint (en : Bool)
  /-- RDACCEL (R130). -/
  | rdaccel
  /-- DRDYXL (R131). -/
  | drdyxl
  /-- DRDYG (R132). -/
  | drdyg
  /-- WKDET (R133). -/
  | wkdet
  /-- WKSRC (R134). -/
  | wksrc
  /-- PULSE (R143). -/
  | pulse
  /-- POLLSTEP (R144). -/
  | pollstep
  /-- ATTACH (R155). -/
  | attach
  /-- DETACH (R156). -/
  | detach
  /-- MAINCHK (R157). -/
  | mainchk
  /-- IDLE (R158). -/
  | idle
  /-- SLEEP `ms` (R145). -/
  | sleep (ms : BitVec 16)
  /-- SHUTDOWN (R159). -/
  | shutdown
  deriving DecidableEq, Repr

end Sys2Proof
end

