-- ==== Sys2Proof/WellFormed.lean ====
section
/-! DEFINITION. Which commands are in range (R93). -/

namespace Sys2Proof

/-- The range of REGRD's operands: `len` is 1..6 and the read stays inside the 256 offsets (R93, R110). -/
def regrdInRange (addr len : Byte) : Bool :=
  decide (1 ≤ len.toNat) && decide (len.toNat ≤ 6) && decide (addr.toNat + len.toNat ≤ 256)

/-- A mode index is in range when it is one of 0..4 (R88, R93). -/
def modeInRange (m : BitVec 4) : Bool :=
  decide (m.toNat ≤ 4)

/-- A command is well-formed when rule R93 does not call it out of range; "No other operand value is out of
range". -/
def Instr.wf : Instr → Bool
  | .regrd addr len => regrdInRange addr len
  | .regwr _ _ => true
  | .regrmw _ _ _ => true
  | .cfgmode amode gmode => modeInRange amode && modeInRange gmode
  | .setfs _ => true
  | .setwkths _ _ _ => true
  | .wkint _ => true
  | .rdaccel => true
  | .drdyxl => true
  | .drdyg => true
  | .wkdet => true
  | .wksrc => true
  | .pulse => true
  | .pollstep => true
  | .attach => true
  | .detach => true
  | .mainchk => true
  | .idle => true
  | .sleep _ => true
  | .shutdown => true

end Sys2Proof
end

