-- ==== Sys2Proof/Decode.lean ====
section
/-! DEFINITION. The decoder of command words (R85 to R91), the encoder written from the same tables, and the
machine-readable opcode table (R90). -/

namespace Sys2Proof

/-- Why a word decodes to no command (R91, reasons (a) and (b)). Reason (c), the deployment, is not a matter of the
word: the meanings check it. -/
inductive DecodeReject where
  /-- The opcode is not one of the twenty of rule R89. -/
  | unknownOpcode
  /-- A must-be-zero bit of the word's format is 1. -/
  | mbzBitSet
  deriving DecidableEq, Repr

/-- `w[31:24]` (R85). -/
def opcodeOf (w : Word) : BitVec 8 := w.extractLsb' 24 8

/-- The field `w[lo+n-1:lo]` of a command word (R11). -/
def field (w : Word) (lo n : Nat) : BitVec n := w.extractLsb' lo n

/-- The full-scale range of the operand index `fs`: `fs_g = 2 << fs` (R88). -/
def FsRange.ofIndex (fs : BitVec 2) : FsRange :=
  if fs = 0b00#2 then .g2
  else if fs = 0b01#2 then .g4
  else if fs = 0b10#2 then .g8
  else .g16

/-- The operand index of a range, `log2(g) - 1` (R88, R102). -/
def FsRange.index : FsRange → BitVec 2
  | .g2 => 0b00#2
  | .g4 => 0b01#2
  | .g8 => 0b10#2
  | .g16 => 0b11#2

/-- One row of rule R89's opcode map with its format (R86): the opcode, the must-be-zero bits of `w[23:0]`, and
the command its operand fields make. -/
structure CmdRow where
  opcode : BitVec 8
  mbz : Word
  build : Word → Instr

/-- The twenty rows of rule R89 with the formats of rule R86. -/
def cmdRows : List CmdRow :=
  [⟨0x01#8, 0x000000FF#32, fun w => .regrd (field w 16 8) (field w 8 8)⟩,
   ⟨0x02#8, 0x000000FF#32, fun w => .regwr (field w 16 8) (field w 8 8)⟩,
   ⟨0x03#8, 0x00000000#32, fun w => .regrmw (field w 16 8) (field w 8 8) (field w 0 8)⟩,
   ⟨0x10#8, 0x00FFF0F0#32, fun w => .cfgmode (field w 8 4) (field w 0 4)⟩,
   ⟨0x11#8, 0x00FFFFFC#32, fun w => .setfs (FsRange.ofIndex (field w 0 2))⟩,
   ⟨0x12#8, 0x000000F8#32, fun w => .setwkths (field w 8 16) (w.getLsbD 2) (field w 0 2)⟩,
   ⟨0x13#8, 0x00FFFFFE#32, fun w => .wkint (w.getLsbD 0)⟩] ++
  [⟨0x20#8, 0x00FFFFFF#32, fun _ => .rdaccel⟩,
   ⟨0x21#8, 0x00FFFFFF#32, fun _ => .drdyxl⟩,
   ⟨0x22#8, 0x00FFFFFF#32, fun _ => .drdyg⟩,
   ⟨0x23#8, 0x00FFFFFF#32, fun _ => .wkdet⟩,
   ⟨0x24#8, 0x00FFFFFF#32, fun _ => .wksrc⟩] ++
  [⟨0x30#8, 0x00FFFFFF#32, fun _ => .pulse⟩,
   ⟨0x31#8, 0x00FFFFFF#32, fun _ => .pollstep⟩,
   ⟨0x32#8, 0x00FFFFFF#32, fun _ => .attach⟩,
   ⟨0x33#8, 0x00FFFFFF#32, fun _ => .detach⟩,
   ⟨0x34#8, 0x00FFFFFF#32, fun _ => .mainchk⟩,
   ⟨0x35#8, 0x00FFFFFF#32, fun _ => .idle⟩,
   ⟨0x36#8, 0x00FF0000#32, fun w => .sleep (field w 0 16)⟩,
   ⟨0x3F#8, 0x00FFFFFF#32, fun _ => .shutdown⟩]

/-- The decoder (R90): "reads `w[31:24]`, finds the row of rule R89 (or none), takes the row's format from rule R86
and extracts the fields"; a must-be-zero bit that is set makes the word illegal (R91(b)). -/
def decode (w : Word) : Except DecodeReject Instr :=
  match cmdRows.find? fun r => r.opcode == opcodeOf w with
  | none => .error .unknownOpcode
  | some r => if w &&& r.mbz = 0#32 then .ok (r.build w) else .error .mbzBitSet

/-- The opcode of a command (R89). -/
def Instr.opcode : Instr → BitVec 8
  | .regrd _ _ => 0x01#8
  | .regwr _ _ => 0x02#8
  | .regrmw _ _ _ => 0x03#8
  | .cfgmode _ _ => 0x10#8
  | .setfs _ => 0x11#8
  | .setwkths _ _ _ => 0x12#8
  | .wkint _ => 0x13#8
  | .rdaccel => 0x20#8
  | .drdyxl => 0x21#8
  | .drdyg => 0x22#8
  | .wkdet => 0x23#8
  | .wksrc => 0x24#8
  | .pulse => 0x30#8
  | .pollstep => 0x31#8
  | .attach => 0x32#8
  | .detach => 0x33#8
  | .mainchk => 0x34#8
  | .idle => 0x35#8
  | .sleep _ => 0x36#8
  | .shutdown => 0x3F#8

/-- The operand bits `w[23:0]` of a command, must-be-zero bits zero (R86). -/
def Instr.operands : Instr → BitVec 24
  | .regrd addr len => addr ++ len ++ 0#8
  | .regwr addr data => addr ++ data ++ 0#8
  | .regrmw addr mask value => addr ++ mask ++ value
  | .cfgmode amode gmode => 0#12 ++ amode ++ 0#4 ++ gmode
  | .setfs g => 0#22 ++ g.index
  | .setwkths thr hp dur => thr ++ 0#5 ++ BitVec.ofBool hp ++ dur
  | .wkint en => 0#23 ++ BitVec.ofBool en
  | .sleep ms => 0#8 ++ ms
  | .rdaccel => 0#24
  | .drdyxl => 0#24
  | .drdyg => 0#24
  | .wkdet => 0#24
  | .wksrc => 0#24
  | .pulse => 0#24
  | .pollstep => 0#24
  | .attach => 0#24
  | .detach => 0#24
  | .mainchk => 0#24
  | .idle => 0#24
  | .shutdown => 0#24

/-- The command word of a command (R85). -/
def encode (i : Instr) : Word := i.opcode ++ i.operands

/-- One row of spec/opcode_table.json. -/
structure OpcodeRow where
  mnemonic : String
  mask : Word
  pattern : Word
  deriving DecidableEq, Repr

/-- spec/opcode_table.json: "`w & mask = match` exactly when the opcode is the row's and every MBZ bit is zero"
(R90). -/
def opcodeTable : List OpcodeRow :=
  [⟨"REGRD", 0xFF0000FF#32, 0x01000000#32⟩, ⟨"REGWR", 0xFF0000FF#32, 0x02000000#32⟩,
   ⟨"REGRMW", 0xFF000000#32, 0x03000000#32⟩, ⟨"CFGMODE", 0xFFFFF0F0#32, 0x10000000#32⟩,
   ⟨"SETFS", 0xFFFFFFFC#32, 0x11000000#32⟩, ⟨"SETWKTHS", 0xFF0000F8#32, 0x12000000#32⟩,
   ⟨"WKINT", 0xFFFFFFFE#32, 0x13000000#32⟩, ⟨"RDACCEL", 0xFFFFFFFF#32, 0x20000000#32⟩,
   ⟨"DRDYXL", 0xFFFFFFFF#32, 0x21000000#32⟩, ⟨"DRDYG", 0xFFFFFFFF#32, 0x22000000#32⟩] ++
  [⟨"WKDET", 0xFFFFFFFF#32, 0x23000000#32⟩, ⟨"WKSRC", 0xFFFFFFFF#32, 0x24000000#32⟩,
   ⟨"PULSE", 0xFFFFFFFF#32, 0x30000000#32⟩, ⟨"POLLSTEP", 0xFFFFFFFF#32, 0x31000000#32⟩,
   ⟨"ATTACH", 0xFFFFFFFF#32, 0x32000000#32⟩, ⟨"DETACH", 0xFFFFFFFF#32, 0x33000000#32⟩,
   ⟨"MAINCHK", 0xFFFFFFFF#32, 0x34000000#32⟩, ⟨"IDLE", 0xFFFFFFFF#32, 0x35000000#32⟩,
   ⟨"SLEEP", 0xFFFF0000#32, 0x36000000#32⟩, ⟨"SHUTDOWN", 0xFFFFFFFF#32, 0x3F000000#32⟩]

/-- A word belongs to a row of the table (R90). -/
def OpcodeRow.covers (r : OpcodeRow) (w : Word) : Bool := w &&& r.mask == r.pattern

/-- The mnemonic of a command (R89). -/
def Instr.mnemonic : Instr → String
  | .regrd _ _ => "REGRD"
  | .regwr _ _ => "REGWR"
  | .regrmw _ _ _ => "REGRMW"
  | .cfgmode _ _ => "CFGMODE"
  | .setfs _ => "SETFS"
  | .setwkths _ _ _ => "SETWKTHS"
  | .wkint _ => "WKINT"
  | .rdaccel => "RDACCEL"
  | .drdyxl => "DRDYXL"
  | .drdyg => "DRDYG"
  | .wkdet => "WKDET"
  | .wksrc => "WKSRC"
  | .pulse => "PULSE"
  | .pollstep => "POLLSTEP"
  | .attach => "ATTACH"
  | .detach => "DETACH"
  | .mainchk => "MAINCHK"
  | .idle => "IDLE"
  | .sleep _ => "SLEEP"
  | .shutdown => "SHUTDOWN"

/-- The command the decoder reads from the `nbits` bits `w` of an opcode-table row: there is one word length, 32
bits (R85), and bits above `nbits` are zero. -/
def decodeTableWord (nbits w : Nat) : Option Instr :=
  if nbits ≤ 32 then
    if w < 2 ^ nbits then
      match decode (BitVec.ofNat 32 w) with
      | .ok i => some i
      | .error _ => none
    else none
  else none

end Sys2Proof
end

