-- ==== Sys2Proof/Machine/State.lean ====
section
/-! DEFINITION. The state of the block, as plain data (spec/10_state.md), the environment's inputs, the output
record, the reasons a step can stop, and the state after reset.

The first group of fields is the specification's own state; the second is the model's: the inputs the environment
has still to deliver, the counter of free values and the output record. -/

namespace Sys2Proof.Machine

/-- The level of a pin, 0 or 1 (R34). -/
inductive Level where
  | low | high
  deriving DecidableEq, Repr

/-- The argument of `SetOutputs` (R140). -/
inductive OutputKind where
  | active | inactive
  deriving DecidableEq, Repr

/-- What the main context is waiting for (R31). -/
inductive Hold where
  /-- Nothing. -/
  | none
  /-- `Sleep(u)`: the brief suspension. -/
  | sleep (u : Nat)
  /-- `Idle(u)`: the low-power wait. -/
  | idle (u : Nat)
  /-- `Block(u)`: inside a blocking pulse. -/
  | block (u : Nat)
  deriving DecidableEq, Repr

/-- The status codes of `RESP[63:56]` (R165). -/
inductive Status where
  | ok | busError | illegalCmd | badOperand
  deriving DecidableEq, Repr

/-- The context a trigger comes from (R141, R180). -/
inductive Ctx where
  | main | irq
  deriving DecidableEq, Repr

/-- What the environment decides about one bus transaction (R41, U18). -/
inductive BusOutcome where
  | ok | fail
  deriving DecidableEq, Repr

/-- One step input (R16, R41). `busFail` is the listing event `@bus fail` of rule R102: the environment makes the
next bus transaction fail. notes/assumptions/14.md. -/
inductive Event where
  | cmd (w : Word)
  | tick
  | intRise
  | sensorWrite (a v : Byte)
  | reset
  | busFail
  deriving DecidableEq, Repr

/-- The record `EVT(t, axes, raw)` (R38). -/
structure MotionEvent where
  time : Nat
  x : Bool
  y : Bool
  z : Bool
  raw : Byte
  deriving DecidableEq, Repr

/-- One entry of the output record: the bus transactions and pin writes of the block in their one total order
(R73), and the records it emits on `EVT` (R38). `ok` is the transaction's outcome. -/
inductive Obs where
  | busRead (dev : BitVec 7) (addr : Byte) (len : Nat) (ok : Bool)
  | busWrite (dev : BitVec 7) (addr value : Byte) (ok : Bool)
  | pins (time : Nat) (kind : OutputKind)
  | evt (e : MotionEvent)
  deriving DecidableEq, Repr

/-- The sensor register space (R39): offsets and bytes in the canonical form of `Memory.wf`. -/
abbrev Memory := List Host.Cell

/-- The state of the machine. -/
structure State where
  /-- The deployment (R6 to R9); not state of the block, and no step writes it (R200). -/
  params : Params
  /-- `RESP` (R22). -/
  resp : BitVec 64
  /-- `fs_cache` (R23). -/
  fsCache : FsRange
  /-- `last_x`, a signed 16-bit integer in two's complement (R24). -/
  lastX : AxisWord
  /-- `active` (R25). -/
  active : Bool
  /-- `deadline`, in ms (R26). -/
  deadline : Nat
  /-- `irq_flag` (R27). -/
  irqFlag : Bool
  /-- `attached` (R28). -/
  attached : Bool
  /-- `bus_fault` (R29). -/
  busFault : Bool
  /-- `halted` (R30). -/
  halted : Bool
  /-- `hold` (R31). -/
  hold : Hold
  /-- `now`, in ms (R33). -/
  now : Nat
  /-- `pin_onboard[0 .. N_ONBOARD-1]` (R34). -/
  pinOnboard : List Level
  /-- `pin_ext` (R34). -/
  pinExt : Level
  /-- `reg[0..255]`, the sensor's registers (R39). -/
  reg : Memory
  /-- MODEL: the events the environment delivers next, first one first (R40, R54).
  notes/assumptions/15.md. -/
  inbox : List Event
  /-- MODEL: the outcomes of the coming bus transactions, next one first; every transaction past the end of the
  list succeeds (R41). notes/assumptions/4.md. -/
  busPlan : List BusOutcome
  /-- MODEL: how many free values have been drawn (U4, U5). notes/assumptions/5.md. -/
  freeCount : Nat
  /-- MODEL: the output record, newest entry first (R38, R73). notes/assumptions/6.md. -/
  trace : List Obs
  deriving DecidableEq, Repr

/-- The reasons a step faults. -/
inductive Fault where
  /-- Raised by `memRead` when a read would run past offset 255, the end of the sensor register space (R60). Rule
  R64 says it "never happens": REGRD refuses such operands first, and the fixed burst is covered by the parameter
  constraint of rule R10(a). Safe: the machine stops where the specification has no behaviour.
  notes/assumptions/12.md. -/
  | offsetBeyondSpace
  deriving DecidableEq, Repr

/-- The reasons a step is refused. -/
inductive Refusal where
  /-- Raised by `exec`'s arm of an instruction that has no meaning yet; no arm raises it now. Safe. -/
  | notModelled (mnemonic : String)
  /-- Raised by `step` when the deployment breaks rule R9 or R10: "not an admissible parameter assignment" (U14,
  U15, treated as `refuse`). Safe. notes/assumptions/13.md. -/
  | inadmissibleParams
  /-- Raised by the event `IntRise` while the routing bit is 0: the environment may not produce it (R41, V-IRQ-2).
  Safe with respect to the specification. notes/assumptions/8.md. -/
  | inadmissibleIntRise
  /-- Raised by the event `SensorWrite` at the offset of a configuration register: the environment may not produce
  it (R41, R63). Safe with respect to the specification. notes/assumptions/8.md. -/
  | inadmissibleSensorWrite (a : Byte)
  deriving DecidableEq, Repr

/-- The answer of a step. -/
abbrev Result := Host.Outcome State Fault Refusal

/-- The state right after `Reset` (R196) of a block deployed with the parameters `p`, powered on at time `t` with
the sensor registers `m`: both "at power-on unspecified" (U6, U7). The pins are at their inactive levels (R35); the
reset writes them (R61), which is the one entry of the output record. -/
def State.powerOn (p : Params) (t : Nat) (m : Memory) : State where
  params := p
  resp := 0#64
  fsCache := p.fsReset
  lastX := 0#16
  active := false
  deadline := 0
  irqFlag := false
  attached := false
  busFault := false
  halted := false
  hold := .none
  now := t
  pinOnboard := List.replicate p.nOnboard .high
  pinExt := .low
  reg := m
  inbox := []
  busPlan := []
  freeCount := 0
  trace := [.pins t .inactive]

/-- The machine right after reset (R196). The deployment is `Params.default`, `now` is 0 and no sensor register is
listed: a DESIGN CHOICE for what the specification leaves unspecified at power-on (U6, U7), unsafe for a claim
about this one state. notes/assumptions/2.md, notes/assumptions/3.md. -/
def State.reset : State := State.powerOn Params.default 0 []

end Sys2Proof.Machine
end

