-- ==== Sys2Proof/Machine/Operands.lean ====
section
/-! DEFINITION. Operand forms, field masks and the arithmetic of the commands: the field codes of rule R8, the
register map of rule R63, rounding (R12), the threshold function (R123, R124), the packing of
response data and the decoding of a sample (R135). -/

namespace Sys2Proof.Machine

/-! ### Bits and fields -/

/-- The byte `1 << i`. -/
def bitMask (i : Fin 8) : Byte := 1#8 <<< i.val

/-- The byte with bit `i` equal to `b`, all others 0: `b << i`. -/
def bitValue (i : Fin 8) (b : Bool) : Byte := if b then bitMask i else 0#8

/-- A field code moved to the field's place: `code << shift`. -/
def placeField {n : Nat} (code : BitVec n) (shift : Fin 8) : Byte := code.setWidth 8 <<< shift.val

/-- The byte a read-modify-write stores: `(old & ~mask) | (v & mask)` (R68). -/
def mergeMask (old mask v : Byte) : Byte := (old &&& ~~~mask) ||| (v &&& mask)

/-! ### Field codes -/

/-- The mode an index names, 0..4 (R88); none for 5..15. -/
def modeOfIndex? (m : BitVec 4) : Option Mode :=
  if m = 0#4 then some .pd
  else if m = 1#4 then some .lp
  else if m = 2#4 then some .n104
  else if m = 3#4 then some .n208
  else if m = 4#4 then some .p416
  else none

/-- The operand index of a mode (R88). -/
def modeIndex : Mode → BitVec 4
  | .pd => 0#4
  | .lp => 1#4
  | .n104 => 2#4
  | .n208 => 3#4
  | .p416 => 4#4

/-- `MODE_CODE(m)` (R8). -/
def modeCode (p : Params) : Mode → BitVec 4
  | .pd => p.codePd
  | .lp => p.codeLp
  | .n104 => p.codeN104
  | .n208 => p.codeN208
  | .p416 => p.codeP416

/-- `FS_CODE(g)` (R8). -/
def fsCode (p : Params) : FsRange → BitVec 2
  | .g2 => p.codeG2
  | .g4 => p.codeG4
  | .g8 => p.codeG8
  | .g16 => p.codeG16

/-- The range as a number of g, one of 2, 4, 8, 16 (R8). -/
def fsG : FsRange → Nat
  | .g2 => 2
  | .g4 => 4
  | .g8 => 8
  | .g16 => 16

/-! ### Masks of the fields that are made of bits -/

/-- The interrupt-enable and filter-select bits of `INT_CFG` (R49). -/
def intCfgMask (p : Params) : Byte := bitMask p.bIntEn ||| bitMask p.bHpSel

/-- The routing bit of `INT_ROUTE` (R50). -/
def routeMask (p : Params) : Byte := bitMask p.bRoute

/-- The four flag bits of `WK_SRC` (R46). -/
def wakeMask (p : Params) : Byte := bitMask p.bWuIa ||| bitMask p.bXWu ||| bitMask p.bYWu ||| bitMask p.bZWu

/-! ### The register map -/

/-- The six configuration registers with the masks of their fields (R63, R42 to R50). -/
def configRegs (p : Params) : List (Byte × Byte) :=
  [(p.aXlCtrl, p.mMode ||| p.mFs), (p.aGCtrl, p.mMode), (p.aWkThs, p.mThs), (p.aWkDur, p.mDur),
   (p.aIntCfg, intCfgMask p), (p.aIntRoute, routeMask p)]

/-- The offset is a configuration register's (R63). -/
def isConfigOffset (p : Params) (a : Byte) : Bool := (configRegs p).any fun r => r.1 == a

/-- The `n` offsets from `a` up contain the offset `t`. -/
def coversOffset (a : Byte) (n : Nat) (t : Byte) : Bool :=
  decide (a.toNat ≤ t.toNat) && decide (t.toNat < a.toNat + n)

/-- The offset is one of the named volatile registers: `STATUS`, `OUT_XL`, `WK_SRC` (R44 to R46). -/
def isVolatileNamed (p : Params) (a : Byte) : Bool :=
  a == p.aStatus || a == p.aWkSrc || coversOffset p.aOutXl 6 a

/-- Registers that share an offset have disjoint field masks. -/
def disjointSharing : List (Byte × Byte) → Bool
  | [] => true
  | r :: rest => rest.all (fun q => r.1 != q.1 || r.2 &&& q.2 == 0#8) && disjointSharing rest

/-! ### Rounding and the threshold function -/

/-- `clamp(v, lo, hi)` (R12). -/
def clampNat (v lo hi : Nat) : Nat := if v < lo then lo else if hi < v then hi else v

/-- `round` of the rational `num / den`, `den > 0`: the nearest integer, at an exact half the one `TIE_RULE` names
(R12). -/
def roundQuot (tie : TieRule) (num den : Nat) : Nat :=
  let k := num / den
  let r := num % den
  if 2 * r < den then k
  else if den < 2 * r then k + 1
  else match tie with
    | .halfUp => k + 1
    | .halfEven => if k % 2 = 0 then k else k + 1

/-- `ThsValue(t, g)`: `clamp(round(8t / 125g), 1, 63)` (R123). -/
def thsValue (tie : TieRule) (t : Nat) (g : FsRange) : Nat :=
  clampNat (roundQuot tie (8 * t) (125 * fsG g)) 1 63

/-- `Eff8(rv, g)`: the effective threshold in units of 1/8 mg (R124). -/
def eff8 (rv : Nat) (g : FsRange) : Nat := rv * fsG g * 125

/-- The data SETWKTHS responds with: `(Eff8 << 8) | rv` (R122). -/
def thsData (rv : Nat) (g : FsRange) : RespData :=
  (BitVec.ofNat 48 (eff8 rv g) <<< 8) ||| BitVec.ofNat 48 rv

/-! ### Response data and samples -/

/-- Byte `i` of the list at bits `[8i+7:8i]` (R110). -/
def packBytes : List Byte → RespData
  | [] => 0#48
  | b :: rest => (packBytes rest <<< 8) ||| b.setWidth 48

/-- A truth value as response data: bit 0. -/
def boolData (b : Bool) : RespData := (BitVec.ofBool b).setWidth 48

/-- A byte as response data: bits 7:0. -/
def byteData (b : Byte) : RespData := b.setWidth 48

/-- Two bytes as response data: `hi : lo` (R112, R120). -/
def pairData (hi lo : Byte) : RespData := (hi ++ lo).setWidth 48

/-- The three axis words of one sample (R45). -/
structure Sample where
  x : AxisWord
  y : AxisWord
  z : AxisWord
  deriving DecidableEq, Repr

/-- `DecodeSample(b)`: three little-endian words in the order X, Y, Z (R135). The words are kept as patterns;
`sext_16` is `BitVec.toInt`. -/
def decodeSample (b : List Byte) : Sample where
  x := b.getD 1 0#8 ++ b.getD 0 0#8
  y := b.getD 3 0#8 ++ b.getD 2 0#8
  z := b.getD 5 0#8 ++ b.getD 4 0#8

/-- The data RDACCEL responds with: Z, Y, X from the high bits down (R130). -/
def sampleData (v : Sample) : RespData := v.z ++ v.y ++ v.x

/-- `|x - last_x|` over the integers, 0..65535, no wrap (R144). -/
def sampleDelta (x lastX : AxisWord) : Nat := (x.toInt - lastX.toInt).natAbs

/-- The data POLLSTEP responds with when a sample was read: `(X << 16) | (trig << 1) | 1` (R144). -/
def pollData (x : AxisWord) (trig : Bool) : RespData :=
  (x.setWidth 48 <<< 16) ||| ((BitVec.ofBool trig).setWidth 48 <<< 1) ||| 1#48

/-- The data MAINCHK responds with when the flag was set: `(detected << 1) | 1` (R157). -/
def mainchkData (detected : Bool) : RespData := ((BitVec.ofBool detected).setWidth 48 <<< 1) ||| 1#48

end Sys2Proof.Machine
end

