-- ==== Sys2Proof/Machine/Deployment.lean ====
section
/-! DEFINITION. The admissible parameter assignments (R9, R10); a deployment outside them is refused (U14, U15). -/

namespace Sys2Proof

open Machine

/-- R10(a): the burst fits, and no configuration register lies at a volatile offset. -/
def Params.offsetsOk (p : Params) : Bool :=
  decide (p.aOutXl.toNat + 5 ≤ 255) && (configRegs p).all fun r => !isVolatileNamed p r.1

/-- R10(b): configuration registers share an offset only with disjoint masks. -/
def Params.sharingOk (p : Params) : Bool := disjointSharing (configRegs p)

/-- R10(c): the mode field is one nibble, the range field two adjacent bits of the other (R7). -/
def Params.modeFieldsOk (p : Params) : Bool :=
  (p.sMode == 0 || p.sMode == 4) && p.mMode == 0x0F#8 <<< p.sMode.val &&
  decide (p.sFs.val ≤ 6) && p.mFs == 0x03#8 <<< p.sFs.val && p.mMode &&& p.mFs == 0#8

/-- R10(d): six adjacent bits of threshold, two of duration (R7). -/
def Params.wakeFieldsOk (p : Params) : Bool :=
  decide (p.sThs.val ≤ 2) && p.mThs == 0x3F#8 <<< p.sThs.val &&
  decide (p.sDur.val ≤ 6) && p.mDur == 0x03#8 <<< p.sDur.val

/-- R10(e), (f): the interrupt bits differ; the wake flags are four bits, the overall and X flags bits 2 and 3. -/
def Params.bitsOk (p : Params) : Bool :=
  p.bIntEn != p.bHpSel &&
  ((p.bWuIa == 2 && p.bXWu == 3) || (p.bWuIa == 3 && p.bXWu == 2)) &&
  p.bYWu != 2 && p.bYWu != 3 && p.bZWu != 2 && p.bZWu != 3 && p.bYWu != p.bZWu

/-- R10(g): both code maps are injective. -/
def Params.codesOk (p : Params) : Bool :=
  decide [p.codePd, p.codeLp, p.codeN104, p.codeN208, p.codeP416].Nodup &&
  decide [p.codeG2, p.codeG4, p.codeG8, p.codeG16].Nodup

/-- R9: the bounds of the pulse-timer parameters. -/
def Params.timerOk (p : Params) : Bool :=
  decide (1 ≤ p.durationMs) && decide (1 ≤ p.idleTimeoutMs) && decide (1 ≤ p.nOnboard) &&
  (!(p.pulseImpl == .blocking && p.strategy == .interrupt) || decide (p.durationMs ≤ 150))

/-- An admissible parameter assignment (R9, R10); any other is refused (U14, U15). -/
def Params.admissible (p : Params) : Bool :=
  p.offsetsOk && p.sharingOk && p.modeFieldsOk && p.wakeFieldsOk && p.bitsOk && p.codesOk && p.timerOk

end Sys2Proof
end

