-- ==== Sys2Proof/Machine/Memory.lean ====
section
/-! DEFINITION. The sensor register space as a list of offsets and bytes in one canonical form (R39, R60): offsets
strictly rising, all below 256, and no entry equal to what an unlisted offset reads as. -/

namespace Sys2Proof.Machine

/-- What an unlisted offset reads as. Every sensor register is unspecified at power-on (U6); 0x00 is a DESIGN
CHOICE, unsafe for a claim about `State.reset` alone. notes/assumptions/3.md. -/
def Memory.unlisted : Byte := 0x00#8

/-- The byte at an offset: `reg[a]` (R14). -/
def Memory.read : Memory → Nat → Byte
  | [], _ => Memory.unlisted
  | (k, v) :: rest, a => if k = a then v else Memory.read rest a

/-- A cell put before memory `m`, unless its byte is what an unlisted offset reads as. -/
def Memory.cons (a : Nat) (v : Byte) (m : Memory) : Memory :=
  if v = Memory.unlisted then m else (a, v) :: m

/-- `reg[a] <- v`, keeping the canonical form (R67). -/
def Memory.write : Memory → Nat → Byte → Memory
  | [], a, v => Memory.cons a v []
  | (k, x) :: rest, a, v =>
    if a < k then Memory.cons a v ((k, x) :: rest)
    else if a = k then Memory.cons a v rest
    else (k, x) :: Memory.write rest a v

/-- The canonical form, from offset `lo` up. -/
def Memory.wfFrom : Nat → Memory → Bool
  | _, [] => true
  | lo, (k, v) :: rest =>
    decide (lo ≤ k) && decide (k < 256) && decide (v ≠ Memory.unlisted) && Memory.wfFrom (k + 1) rest

/-- The canonical form of the register space. -/
def Memory.wf (m : Memory) : Bool := Memory.wfFrom 0 m

/-- The `n` bytes from offset `a` up, lowest offset first: `b[i] = reg[a+i]` (R62, R66). -/
def Memory.readBytes (m : Memory) (a : Nat) : Nat → List Byte
  | 0 => []
  | n + 1 => Memory.read m a :: Memory.readBytes m (a + 1) n

end Sys2Proof.Machine
end

