-- ==== Sys2Proof/Machine/Flags.lean ====
section
/-! DEFINITION. Every flag the specification gives: the derived `BUSY` and acceptance (R32, R101), the data-ready
bits (R44), the wake-source flags (R136) and the routing gate of the interrupt line (R41). There are no arithmetic
condition codes (R36); the flags that are state are fields of `State`. -/

namespace Sys2Proof.Machine

/-- `BUSY`, the output `hold != None` (R32). -/
def State.busy (s : State) : Bool := s.hold != .none

/-- A command word is accepted (R101): not halted, and no hold unless the opcode is SHUTDOWN's. -/
def State.accepts (s : State) (w : Word) : Bool :=
  !s.halted && (!s.busy || opcodeOf w == 0x3F#8)

/-- `XLDA`, bit 0 of `STATUS` (R44). -/
def xlReady (status : Byte) : Bool := status.getLsbD 0

/-- `GDA`, bit 1 of `STATUS` (R44). -/
def gReady (status : Byte) : Bool := status.getLsbD 1

/-- The four wake-source flags (R136). -/
structure WakeFlags where
  wu : Bool
  xw : Bool
  yw : Bool
  zw : Bool
  deriving DecidableEq, Repr

/-- `DecodeWake(s)`: four independent bits of the byte (R136). -/
def decodeWake (p : Params) (v : Byte) : WakeFlags where
  wu := v.getLsbD p.bWuIa.val
  xw := v.getLsbD p.bXWu.val
  yw := v.getLsbD p.bYWu.val
  zw := v.getLsbD p.bZWu.val

/-- The data WKSRC responds with: `zw : yw : xw : wu : s` (R134). -/
def wakeData (f : WakeFlags) (v : Byte) : RespData :=
  (BitVec.ofBool f.zw ++ BitVec.ofBool f.yw ++ BitVec.ofBool f.xw ++ BitVec.ofBool f.wu ++ v).setWidth 48

/-- The wake-up condition is routed to the line: `reg[A_INT_ROUTE][B_ROUTE]` (R41). -/
def State.routed (s : State) : Bool :=
  (Memory.read s.reg s.params.aIntRoute.toNat).getLsbD s.params.bRoute.val

end Sys2Proof.Machine
end

