-- ==== Sys2Proof/Machine/Ops.lean ====
section
/-! DEFINITION. The named operations every meaning is built from: the response (R98), the bus primitives (R66 to
R68), the error a failed transaction raises (R167), the pins, the pulse and its auto-clear (R140 to R142), and
taking the interrupt and returning from it (R174 to R178). -/

namespace Sys2Proof.Machine

/-! ### The response -/

/-- The code of a status (R165). -/
def Status.code : Status → BitVec 8
  | .ok => 0x00#8
  | .busError => 0x01#8
  | .illegalCmd => 0x02#8
  | .badOperand => 0x03#8

/-- The 64 bits `st : 0x00 : d` (R98). -/
def respWord (st : Status) (d : RespData) : BitVec 64 := st.code ++ 0x00#8 ++ d

/-- `Respond(st, d)` (R98). -/
def respond (st : Status) (d : RespData) (s : State) : State := { s with resp := respWord st d }

/-- The answer to an illegal command (R168). -/
def illegal (s : State) : State := respond .illegalCmd 0#48 s

/-- The answer to an out-of-range command (R169). -/
def badOperand (s : State) : State := respond .badOperand 0#48 s

/-- `raise BusError` in a command: the sticky flag and the response (R167). Nothing more of the command runs, since
the caller's continuation is not called. -/
def raiseBusError (s : State) : State := respond .busError 0#48 { s with busFault := true }

/-! ### The bus -/

/-- The answer of a bus operation: a value, a failed transaction, or a stop of the machine. -/
inductive BusRes (α : Type) where
  | ok (a : α) (s : State)
  | err (s : State)
  | stop (f : Fault)
  deriving Repr

/-- What follows a bus operation runs only when it succeeded. -/
def BusRes.bind {α β : Type} (r : BusRes α) (k : α → State → BusRes β) : BusRes β :=
  match r with
  | .ok a s => k a s
  | .err s => .err s
  | .stop f => .stop f

/-- The end of a command: `k` after success, `raise BusError` after a failed transaction (R167). -/
def BusRes.conclude {α : Type} (r : BusRes α) (k : α → State → State) : Result :=
  match r with
  | .ok a s => .next (k a s)
  | .err s => .next (raiseBusError s)
  | .stop f => .fault f

/-- The environment's choice for the next transaction (R41). -/
def State.busOutcome (s : State) : BusOutcome := s.busPlan.headD .ok

/-- One transaction has taken place: its outcome is used up and it is entered in the record. -/
def State.afterBus (s : State) (o : Obs) : State := { s with busPlan := s.busPlan.tail, trace := o :: s.trace }

/-- A free value has been drawn. -/
def State.drawFree (s : State) : State := { s with freeCount := s.freeCount + 1 }

/-- `reg[a] <- v`. -/
def State.setReg (s : State) (a v : Byte) : State := { s with reg := Memory.write s.reg a.toNat v }

/-- A read of the `n` offsets from `a` up clears wake flags: `WAKE_SRC_READ_CLEARS` and `a <= A_WK_SRC < a + n`
(R66). -/
def State.readClears (s : State) (a : Byte) (n : Nat) : Bool :=
  s.params.wakeSrcReadClears && coversOffset a n s.params.aWkSrc

/-- The clearing side effect: the four named flags of `WK_SRC` become 0, the other bits stay (R66). -/
def State.clearWake (s : State) : State :=
  s.setReg s.params.aWkSrc (Memory.read s.reg s.params.aWkSrc.toNat &&& ~~~(wakeMask s.params))

/-- `MemRead(a, n)` (R66): one transaction. The bytes are those before the side effect; after a failure the side
effect is a free choice and no value is returned. A read past offset 255 stops the machine (R64).
notes/assumptions/12.md. -/
def memRead (a : Byte) (n : Nat) (s : State) : BusRes (List Byte) :=
  if 256 < a.toNat + n then .stop .offsetBeyondSpace
  else match s.busOutcome with
    | .ok =>
      let t := s.afterBus (.busRead s.params.devAddr a n true)
      .ok (Memory.readBytes s.reg a.toNat n) (if s.readClears a n then t.clearWake else t)
    | .fail =>
      let t := (s.afterBus (.busRead s.params.devAddr a n false)).drawFree
      .err (if s.readClears a n && Config.freeClear s.freeCount then t.clearWake else t)

/-- `MemRead(a, 1)[0]`. -/
def readByte (a : Byte) (s : State) : BusRes Byte :=
  (memRead a 1 s).bind fun b t => .ok (b.headD 0#8) t

/-- `MemWrite(a, 1, v)` (R67): one transaction; after a failure the register holds a free byte. -/
def memWrite (a v : Byte) (s : State) : BusRes Unit :=
  match s.busOutcome with
  | .ok => .ok () ((s.afterBus (.busWrite s.params.devAddr a v true)).setReg a v)
  | .fail =>
    .err ((s.afterBus (.busWrite s.params.devAddr a v false)).drawFree.setReg a (Config.freeByte s.freeCount))

/-- `RMW(a, mask, v)` (R68): a read, then a write that is always issued; answers `(old, new)`. -/
def rmw (a mask v : Byte) (s : State) : BusRes (Byte × Byte) :=
  (readByte a s).bind fun old t =>
    (memWrite a (mergeMask old mask v) t).bind fun _ u => .ok (old, mergeMask old mask v) u

/-! ### The deployment -/

/-- A command of one strategy is illegal under the other (R91(c), R92). notes/assumptions/11.md. -/
def requireStrategy (st : Strategy) (s : State) (body : Result) : Result :=
  if s.params.strategy = st then body else .next (illegal s)

/-! ### The indicator -/

/-- The level of an onboard pin, inverted: 0 is lit (R35). -/
def OutputKind.onboardLevel : OutputKind → Level
  | .active => .low
  | .inactive => .high

/-- The level of the external pin, not inverted: 1 is lit (R35). -/
def OutputKind.extLevel : OutputKind → Level
  | .active => .high
  | .inactive => .low

/-- `SetOutputs(k)`: all pins together (R140). -/
def setOutputs (k : OutputKind) (s : State) : State :=
  { s with
    pinOnboard := List.replicate s.params.nOnboard k.onboardLevel
    pinExt := k.extLevel
    trace := .pins s.now k :: s.trace }

/-- `SetOutputs(inactive) ; active <- 0`. -/
def endPulse (s : State) : State := { setOutputs .inactive s with active := false }

/-- The part of a trigger both implementations share: pins active, `active`, `deadline` (R141). -/
def startPulse (s : State) : State :=
  { setOutputs .active s with active := true, deadline := s.now + s.params.durationMs }

/-- `Pulse(ctx)`: one trigger (R141). A blocking pulse puts the main context on hold and lets the time of the
interrupt context pass. -/
def pulseTrigger (ctx : Ctx) (s : State) : State :=
  let t := startPulse s
  match s.params.pulseImpl, ctx with
  | .deadline, _ => t
  | .blocking, .main => { t with hold := .block t.deadline }
  | .blocking, .irq => endPulse { t with now := t.now + t.params.durationMs }

/-- The deferred auto-clear, the first clause of `Settle` (R142). -/
def settleClear (s : State) : State :=
  if s.params.pulseImpl = .deadline ∧ s.active = true ∧ s.deadline ≤ s.now then endPulse s else s

/-- The clauses of `Settle` that lift a hold (R142). -/
def settleHold (s : State) : State :=
  match s.hold with
  | .none => s
  | .block u => if u ≤ s.now then { endPulse s with hold := .none } else s
  | .sleep u => if u ≤ s.now then { s with hold := .none } else s
  | .idle u =>
    if u ≤ s.now ∨ (s.params.idleWakesOnIrq = true ∧ s.irqFlag = true) then { s with hold := .none } else s

/-- `Settle()` (R142). -/
def settle (s : State) : State := settleHold (settleClear s)

/-! ### The interrupt -/

/-- The body of the handler after its read succeeded (R176). -/
def handlerBody (v : Byte) (s : State) : State :=
  let f := decodeWake s.params v
  let t := { s with trace := .evt ⟨s.now, f.xw, f.yw, f.zw, v⟩ :: s.trace }
  { (if f.xw then pulseTrigger .irq t else t) with irqFlag := true }

/-- The handler's read failed (R178). -/
def handlerBusError (s : State) : State := { s with busFault := true, irqFlag := true }

/-- The return of the handler: nothing is restored, since nothing was saved; `Settle` runs (R174, R177). -/
def handlerReturn (s : State) : State := settle s

/-- Taking the interrupt: nothing is saved and no mode changes (R175), the one fixed handler runs whole as one
atomic step (R174, R176, R178) and returns. -/
def takeInterrupt (s : State) : Result :=
  match readByte s.params.aWkSrc s with
  | .ok v t => .next (handlerReturn (handlerBody v t))
  | .err t => .next (handlerReturn (handlerBusError t))
  | .stop f => .fault f

end Sys2Proof.Machine
end

