-- ==== Sys2Proof/Machine/Indicator.lean ====
section
/-! DEFINITION. The pulse timer and the polling detector: PULSE, POLLSTEP, SLEEP (spec/43_indicator.md). -/

namespace Sys2Proof.Machine

/-- PULSE (R143). -/
def execPulse (s : State) : Result := .next (respond .ok 0#48 (pulseTrigger .main s))

/-- The second half of POLLSTEP, after the sample was read (R144). -/
def pollDetect (v : Sample) (s : State) : State :=
  let trig := decide (s.params.threshold < sampleDelta v.x s.lastX)
  let t := if trig then pulseTrigger .main s else s
  respond .ok (pollData v.x trig) { t with lastX := v.x }

/-- POLLSTEP (R144), legal under the polling strategy only (R92). When no sample is ready nothing else happens. -/
def execPollstep (s : State) : Result :=
  requireStrategy .polling s <|
    ((readByte s.params.aStatus s).bind fun v t =>
      if xlReady v then
        (memRead s.params.aOutXl 6 t).bind fun b u => .ok () (pollDetect (decodeSample b) u)
      else .ok () (respond .ok 0#48 t)).conclude fun _ u => u

/-- SLEEP (R145). -/
def execSleep (ms : BitVec 16) (s : State) : Result :=
  .next (respond .ok 0#48 { s with hold := .sleep (s.now + ms.toNat) })

end Sys2Proof.Machine
end

