-- ==== Sys2Proof/Machine/IrqControl.lean ====
section
/-! DEFINITION. Interrupt control and shutdown: ATTACH, DETACH, MAINCHK, IDLE, SHUTDOWN (spec/44_irq_control.md). -/

namespace Sys2Proof.Machine

/-- ATTACH (R155), legal under the interrupt strategy only (R92). -/
def execAttach (s : State) : Result :=
  requireStrategy .interrupt s (.next (respond .ok 0#48 { s with attached := true }))

/-- DETACH (R156), legal under the interrupt strategy only (R92). -/
def execDetach (s : State) : Result :=
  requireStrategy .interrupt s (.next (respond .ok 0#48 { s with attached := false }))

/-- MAINCHK (R157), legal under the interrupt strategy only (R92): no bus access when the flag is clear; the flag is
cleared only after the read succeeded. -/
def execMainchk (s : State) : Result :=
  requireStrategy .interrupt s <|
    if s.irqFlag then
      (readByte s.params.aWkSrc s).conclude fun v t =>
        respond .ok (mainchkData (decodeWake s.params v).wu) { t with irqFlag := false }
    else .next (respond .ok 0#48 s)

/-- IDLE (R158), legal under the interrupt strategy only (R92). -/
def execIdle (s : State) : Result :=
  requireStrategy .interrupt s
    (.next (respond .ok 0#48 { s with hold := .idle (s.now + s.params.idleTimeoutMs) }))

/-- The part of the cleanup that runs whether or not the un-routing succeeded (R159). -/
def shutdownTail (st : Status) (s : State) : State :=
  respond st 0#48 { endPulse { s with attached := false } with hold := .none, halted := true }

/-- SHUTDOWN (R159): a bus failure is recorded and reported, and does not abandon the rest. -/
def execShutdown (s : State) : Result :=
  match rmw s.params.aIntRoute (routeMask s.params) 0#8 s with
  | .ok _ t => .next (shutdownTail .ok t)
  | .err t => .next (shutdownTail .busError { t with busFault := true })
  | .stop f => .fault f

end Sys2Proof.Machine
end

