-- ==== Sys2Proof/Machine/RawAccess.lean ====
section
/-! DEFINITION. Raw register access: REGRD, REGWR, REGRMW (spec/40_csr_access.md). -/

namespace Sys2Proof.Machine

/-- REGRD (R110). -/
def execRegrd (addr len : Byte) (s : State) : Result :=
  if regrdInRange addr len then
    (memRead addr len.toNat s).conclude fun b t => respond .ok (packBytes b) t
  else .next (badOperand s)

/-- REGWR (R111). -/
def execRegwr (addr data : Byte) (s : State) : Result :=
  (memWrite addr data s).conclude fun _ t => respond .ok (byteData data) t

/-- REGRMW (R112). -/
def execRegrmw (addr mask value : Byte) (s : State) : Result :=
  (rmw addr mask value s).conclude fun r t => respond .ok (pairData r.1 r.2) t

end Sys2Proof.Machine
end

