-- ==== Sys2Proof/Machine/SensorConfig.lean ====
section
/-! DEFINITION. Sensor configuration: CFGMODE, SETFS, SETWKTHS, WKINT (spec/41_sensor_config.md). -/

namespace Sys2Proof.Machine

/-- CFGMODE (R120): the accelerometer register first; a mode index above 4 is out of range (R93). -/
def execCfgmode (amode gmode : BitVec 4) (s : State) : Result :=
  match modeOfIndex? amode, modeOfIndex? gmode with
  | some am, some gm =>
    ((rmw s.params.aXlCtrl s.params.mMode (placeField (modeCode s.params am) s.params.sMode) s).bind fun r1 t =>
      (rmw s.params.aGCtrl s.params.mMode (placeField (modeCode s.params gm) s.params.sMode) t).bind fun r2 u =>
        .ok (r2.2, r1.2) u).conclude fun n u => respond .ok (pairData n.1 n.2) u
  | _, _ => .next (badOperand s)

/-- SETFS (R121): `fs_cache` changes only after both transactions succeeded. -/
def execSetfs (g : FsRange) (s : State) : Result :=
  (rmw s.params.aXlCtrl s.params.mFs (placeField (fsCode s.params g) s.params.sFs) s).conclude fun r t =>
    respond .ok (byteData r.2) { t with fsCache := g }

/-- SETWKTHS (R122): threshold, duration, shared configuration register, in that order; the range is
`fs_cache`'s. -/
def execSetwkths (thr : BitVec 16) (hp : Bool) (dur : BitVec 2) (s : State) : Result :=
  let rv := thsValue s.params.tieRule thr.toNat s.fsCache
  ((rmw s.params.aWkThs s.params.mThs (placeField (BitVec.ofNat 6 rv) s.params.sThs) s).bind fun _ t =>
    (rmw s.params.aWkDur s.params.mDur (placeField dur s.params.sDur) t).bind fun _ u =>
      rmw s.params.aIntCfg (intCfgMask s.params)
        (bitMask s.params.bIntEn ||| bitValue s.params.bHpSel hp) u).conclude fun _ u =>
    respond .ok (thsData rv s.fsCache) u

/-- WKINT (R125). -/
def execWkint (en : Bool) (s : State) : Result :=
  (rmw s.params.aIntRoute (routeMask s.params) (bitValue s.params.bRoute en) s).conclude fun r t =>
    respond .ok (byteData r.2) t

end Sys2Proof.Machine
end

