-- ==== Sys2Proof/Machine/SensorRead.lean ====
section
/-! DEFINITION. Sensor reads: RDACCEL, DRDYXL, DRDYG, WKDET, WKSRC (spec/42_sensor_read.md); each is exactly one
bus read. -/

namespace Sys2Proof.Machine

/-- RDACCEL (R130). -/
def execRdaccel (s : State) : Result :=
  (memRead s.params.aOutXl 6 s).conclude fun b t => respond .ok (sampleData (decodeSample b)) t

/-- DRDYXL (R131). -/
def execDrdyxl (s : State) : Result :=
  (readByte s.params.aStatus s).conclude fun v t => respond .ok (boolData (xlReady v)) t

/-- DRDYG (R132). -/
def execDrdyg (s : State) : Result :=
  (readByte s.params.aStatus s).conclude fun v t => respond .ok (boolData (gReady v)) t

/-- WKDET (R133). -/
def execWkdet (s : State) : Result :=
  (readByte s.params.aWkSrc s).conclude fun v t => respond .ok (boolData (decodeWake s.params v).wu) t

/-- WKSRC (R134). -/
def execWksrc (s : State) : Result :=
  (readByte s.params.aWkSrc s).conclude fun v t => respond .ok (wakeData (decodeWake s.params v) v) t

end Sys2Proof.Machine
end

