-- ==== Sys2Proof/Machine/Dispatch.lean ====
section
/-! DEFINITION. The one dispatch from a command to its meaning. -/

namespace Sys2Proof.Machine

def exec (i : Instr) (s : State) : Host.Outcome State Fault Refusal :=
  match i with
  | .regrd addr len => Sys2Proof.Machine.execRegrd addr len s
  | .regwr addr data => Sys2Proof.Machine.execRegwr addr data s
  | .regrmw addr mask value => Sys2Proof.Machine.execRegrmw addr mask value s
  | .cfgmode amode gmode => Sys2Proof.Machine.execCfgmode amode gmode s
  | .setfs g => Sys2Proof.Machine.execSetfs g s
  | .setwkths thr hp dur => Sys2Proof.Machine.execSetwkths thr hp dur s
  | .wkint en => Sys2Proof.Machine.execWkint en s
  | .rdaccel => Sys2Proof.Machine.execRdaccel s
  | .drdyxl => Sys2Proof.Machine.execDrdyxl s
  | .drdyg => Sys2Proof.Machine.execDrdyg s
  | .wkdet => Sys2Proof.Machine.execWkdet s
  | .wksrc => Sys2Proof.Machine.execWksrc s
  | .pulse => Sys2Proof.Machine.execPulse s
  | .pollstep => Sys2Proof.Machine.execPollstep s
  | .attach => Sys2Proof.Machine.execAttach s
  | .detach => Sys2Proof.Machine.execDetach s
  | .mainchk => Sys2Proof.Machine.execMainchk s
  | .idle => Sys2Proof.Machine.execIdle s
  | .sleep ms => Sys2Proof.Machine.execSleep ms s
  | .shutdown => Sys2Proof.Machine.execShutdown s

end Sys2Proof.Machine
end

