-- ==== Sys2Proof/Machine/Events.lean ====
section
/-! DEFINITION. What one event does (R16, R40, R41): the command port (R100, R101), the tick (R146), the rising
edge of the interrupt line (R174), a change of a sensor register (R41), the reset (R196). -/

namespace Sys2Proof.Machine

/-- An instruction's answer followed by `Settle()`, "once at the end of every accepted command" (R100, R142). -/
def settleResult (r : Result) : Result :=
  match r with
  | .next s => .next (settle s)
  | .fault f => .fault f
  | .refused e => .refused e

/-- A command word on the command port. A word that is not accepted "is not executed and changes nothing, not even
`RESP`" (R101); an accepted illegal word answers ILLEGAL_CMD (R168); any other runs its instruction rule, and
`Settle()` follows (R100). notes/assumptions/10.md, notes/assumptions/11.md. -/
def presentCommand (w : Word) (s : State) : Result :=
  if s.accepts w then
    match decode w with
    | .error _ => .next (settle (illegal s))
    | .ok i => settleResult (exec i s)
  else .next s

/-- `Tick` (R146). -/
def tick (s : State) : State := settle { s with now := s.now + 1 }

/-- `IntRise` (R174): inadmissible while un-routed (R41); with no handler attached the edge is forgotten. -/
def intRise (s : State) : Result :=
  if s.routed then (if s.attached then takeInterrupt s else .next s)
  else .refused .inadmissibleIntRise

/-- `SensorWrite(a, v)` (R41): admissible at every offset that is not a configuration register's. -/
def sensorWrite (a v : Byte) (s : State) : Result :=
  if isConfigOffset s.params a then .refused (.inadmissibleSensorWrite a) else .next (s.setReg a v)

/-- `Reset` (R196): every element of block state at its reset value; `now`, the sensor registers and the
environment's inputs are left alone (R197). -/
def resetBlock (s : State) : State :=
  setOutputs .inactive
    { s with
      resp := 0#64, fsCache := s.params.fsReset, lastX := 0#16, active := false, deadline := 0, irqFlag := false,
      attached := false, busFault := false, halted := false, hold := .none }

/-- One event. -/
def perform (e : Event) (s : State) : Result :=
  match e with
  | .cmd w => presentCommand w s
  | .tick => .next (tick s)
  | .intRise => intRise s
  | .sensorWrite a v => sensorWrite a v s
  | .reset => .next (resetBlock s)
  | .busFail => .next { s with busPlan := .fail :: s.busPlan }

/-- One event of a deployment: a parameter assignment that is not admissible is refused (U14, U15).
notes/assumptions/13.md. -/
def performAdmissible (e : Event) (s : State) : Result :=
  if s.params.admissible then perform e s else .refused .inadmissibleParams

/-- The order in which events of one instant are delivered by an implementation that must choose one: "`Tick` first,
then `IntRise`, then the command" (R173). The step itself admits every order: the inbox is any list. -/
def simultaneous (ticks rises : Bool) (cmd : Option Word) : List Event :=
  (if ticks then [.tick] else []) ++ (if rises then [.intRise] else []) ++ cmd.toList.map .cmd

/-- The word a table row's bits stand for: bits from `nbits` up are zero. -/
def tableWord (nbits w : Nat) : Word := BitVec.ofNat 32 (w % 2 ^ min nbits 32)

/-- Present the word as the very next event, to a command port that accepts it: no hold, not halted (R101). -/
def presentNext (w : Word) (s : State) : State :=
  { s with inbox := .cmd w :: s.inbox, hold := .none, halted := false }

end Sys2Proof.Machine
end

