-- ==== Sys2Proof/Machine/Step.lean ====
section
/-! DEFINITION. One step: the next event the environment delivers. -/

namespace Sys2Proof.Machine

/-- One step takes the first event of the inbox and performs it. With an empty inbox the environment delivers
nothing and nothing changes: time passes only by `Tick` (R216). notes/assumptions/7.md. -/
def step (s : State) : Host.Outcome State Fault Refusal :=
  match s.inbox with
  | [] => .next s
  | e :: rest => performAdmissible e { s with inbox := rest }

/-- The block fetches no instructions (R21, R76): command words are presented by the host. So the word is presented
as the very next event. notes/assumptions/9.md. -/
def State.withFetchWord (s : State) (nbits w : Nat) : State := presentNext (tableWord nbits w) s

end Sys2Proof.Machine
end

