-- ==== Sys2Proof/Machine/Assembler.lean ====
section
/-! DEFINITION. The assembler syntax and the pseudo-instructions (R102, R103): one line of a listing, as characters,
gives the environment's events it stands for. No step of the machine reads a listing; a listing is a way to write
the inbox down. notes/assumptions/18.md. -/

namespace Sys2Proof.Machine

/-- A character that separates nothing but words. -/
def isBlank (c : Char) : Bool := c == ' ' || c == '\t'

/-- The text without blanks at its two ends. -/
def trimBlanks (cs : List Char) : List Char := ((cs.dropWhile isBlank).reverse.dropWhile isBlank).reverse

/-- The text before a comment: "`;` starts a comment" (R102). -/
def dropComment (cs : List Char) : List Char := cs.takeWhile (· != ';')

/-- The pieces between commas, trimmed; empty text has no piece. -/
def splitOperands (cs : List Char) : List (List Char) :=
  match trimBlanks cs with
  | [] => []
  | t => (t.foldr (fun c acc => if c == ',' then [] :: acc else match acc with
      | [] => [[c]]
      | p :: ps => (c :: p) :: ps) [[]]).map trimBlanks

/-- The value of a digit in a base. -/
def digitValue? (base : Nat) (c : Char) : Option Nat :=
  let n := c.toNat
  let d :=
    if 48 ≤ n ∧ n ≤ 57 then n - 48
    else if 97 ≤ n ∧ n ≤ 102 then n - 87
    else if 65 ≤ n ∧ n ≤ 70 then n - 55
    else 16
  if d < base then some d else none

/-- A run of digits after the value `acc`. -/
def parseDigits (base : Nat) : Nat → List Char → Option Nat
  | acc, [] => some acc
  | acc, c :: cs => (digitValue? base c).bind fun d => parseDigits base (acc * base + d) cs

/-- "Numbers are decimal, `0x` hexadecimal or `0b` binary" (R102). -/
def parseNumber : List Char → Option Nat
  | [] => none
  | ['0', 'x'] => none
  | ['0', 'b'] => none
  | '0' :: 'x' :: cs => parseDigits 16 0 cs
  | '0' :: 'b' :: cs => parseDigits 2 0 cs
  | cs => parseDigits 10 0 cs

/-- A number that fits `n` bits. -/
def parseField (n : Nat) (cs : List Char) : Option (BitVec n) :=
  (parseNumber cs).bind fun v => if v < 2 ^ n then some (BitVec.ofNat n v) else none

/-- A mode name, as the operand index of rule R88. -/
def parseMode (cs : List Char) : Option (BitVec 4) :=
  if cs = ['P', 'D'] then some 0#4
  else if cs = ['L', 'P'] then some 1#4
  else if cs = ['N', '1', '0', '4'] then some 2#4
  else if cs = ['N', '2', '0', '8'] then some 3#4
  else if cs = ['P', '4', '1', '6'] then some 4#4
  else none

/-- A range, one of 2, 4, 8, 16 (R102). -/
def parseRange (cs : List Char) : Option FsRange :=
  match parseNumber cs with
  | some 2 => some .g2
  | some 4 => some .g4
  | some 8 => some .g8
  | some 16 => some .g16
  | _ => none

/-- A number of samples 1..4, assembled as `dur = samples - 1` (R102). -/
def parseSamples (cs : List Char) : Option (BitVec 2) :=
  (parseNumber cs).bind fun v => if 1 ≤ v ∧ v ≤ 4 then some (BitVec.ofNat 2 (v - 1)) else none

/-- A flag operand, 0 or 1 (R102). -/
def parseFlag (cs : List Char) : Option Bool :=
  match parseNumber cs with
  | some 0 => some false
  | some 1 => some true
  | _ => none

/-- The operands of SETWKTHS in the order `mg, samples, hp` (R102). -/
def parseSetwkths (mg samples hp : List Char) : Option Instr :=
  (parseField 16 mg).bind fun t => (parseSamples samples).bind fun d => (parseFlag hp).bind fun h =>
    some (.setwkths t h d)

/-- A mnemonic that takes no operand: the Z formats of rule R86. -/
def zCommand? (mn : String) : Option Instr :=
  [Instr.rdaccel, .drdyxl, .drdyg, .wkdet, .wksrc, .pulse, .pollstep, .attach, .detach, .mainchk, .idle,
   .shutdown].find? fun i => i.mnemonic == mn

/-- The commands a mnemonic with its operands stands for (R102), pseudo-instructions included (R103). -/
def assembleCommand (mn : String) (ops : List (List Char)) : Option (List Instr) :=
  match ops with
  | [] => if mn = "CLEANUP" then some [.shutdown] else (zCommand? mn).map fun i => [i]
  | [a] =>
    if mn = "SETFS" then (parseRange a).map fun g => [.setfs g]
    else if mn = "WKINT" then (parseFlag a).map fun e => [.wkint e]
    else if mn = "SLEEP" then (parseField 16 a).map fun m => [.sleep m]
    else if mn = "DRDY" then
      (if a = ['x', 'l'] then some [.drdyxl] else if a = ['g'] then some [.drdyg] else none)
    else none
  | [a, b] =>
    if mn = "REGRD" then (parseField 8 a).bind fun x => (parseField 8 b).map fun y => [.regrd x y]
    else if mn = "REGWR" then (parseField 8 a).bind fun x => (parseField 8 b).map fun y => [.regwr x y]
    else if mn = "CFGMODE" then (parseMode a).bind fun x => (parseMode b).map fun y => [.cfgmode x y]
    else none
  | [a, b, c] =>
    if mn = "REGRMW" then
      (parseField 8 a).bind fun x => (parseField 8 b).bind fun y => (parseField 8 c).map fun z => [.regrmw x y z]
    else if mn = "SETWKTHS" then (parseSetwkths a b c).map fun i => [i]
    else if mn = "STARTIRQ" then (parseSetwkths a b c).map fun i => [i, .wkint true, .attach]
    else none
  | _ => none

/-- The environment events of a listing, "written in lower case with a leading `@`" (R102). -/
def assembleEvent (name : String) (ops : List (List Char)) : Option (List Event) :=
  match ops with
  | [] => if name = "@int" then some [.intRise] else if name = "@reset" then some [.reset] else none
  | [a] =>
    if name = "@tick" then (parseNumber a).map fun n => List.replicate n .tick
    else if name = "@bus" ∧ a = ['f', 'a', 'i', 'l'] then some [.busFail]
    else none
  | [a, b] =>
    if name = "@sensor" then (parseField 8 a).bind fun x => (parseField 8 b).map fun y => [.sensorWrite x y]
    else none
  | _ => none

/-- One line of a listing: one command or one environment event; a blank line gives nothing; none when the line is
not of rule R102's syntax. -/
def assembleLine (line : List Char) : Option (List Event) :=
  let t := trimBlanks (dropComment line)
  let name := t.takeWhile fun c => !isBlank c
  let ops := splitOperands (t.dropWhile fun c => !isBlank c)
  match name with
  | [] => some []
  | '@' :: _ => assembleEvent (String.ofList name) ops
  | _ => (assembleCommand (String.ofList name) ops).map fun is => is.map fun i => .cmd (encode i)

/-- A listing: its lines in order. -/
def assembleListing : List (List Char) → Option (List Event)
  | [] => some []
  | l :: rest => (assembleLine l).bind fun e => (assembleListing rest).map fun es => e ++ es

end Sys2Proof.Machine
end

