-- ==== Sys2Proof/Safety.lean ====
section
/-! DEFINITION. What claims about the machine are stated in: the bytes of the sensor registers, the environment's
choices for the next transactions, what a step may change, and the invariant of a run. -/

namespace Sys2Proof.Machine

/-- `reg[a]` for an offset (R14). -/
def State.regAt (s : State) (a : Byte) : Byte := Memory.read s.reg a.toNat

/-- The next `n` bus transactions succeed. -/
abbrev State.BusOk (n : Nat) (s : State) : Prop := ∀ o ∈ s.busPlan.take n, o = .ok

/-- The next `n` bus transactions succeed and the one after them fails; `rest` are the environment's choices that
follow. -/
abbrev State.BusFailsAfter (n : Nat) (rest : List BusOutcome) (s : State) : Prop :=
  s.busPlan = List.replicate n .ok ++ .fail :: rest

/-- A bus command changed nothing but `RESP`, the sensor registers and what the model keeps of the environment:
the outcomes used, the record and the free values drawn. -/
def OnlyBusEffects (s t : State) : Prop :=
  t = { s with resp := t.resp, reg := t.reg, busPlan := t.busPlan, trace := t.trace, freeCount := t.freeCount }

/-- As `OnlyBusEffects`, for a command that ended in a bus error: `RESP` is (BUS_ERROR, 0) and `bus_fault` is set
(R167). -/
def OnlyBusErrorEffects (s t : State) : Prop :=
  t = { s with
        resp := 0x0100000000000000#64, busFault := true, reg := t.reg, busPlan := t.busPlan, trace := t.trace,
        freeCount := t.freeCount }

/-- Every offset outside the list reads as before. -/
def RegsUnchangedOutside (as : List Byte) (s t : State) : Prop :=
  ∀ a : Byte, a ∉ as → t.regAt a = s.regAt a

/-- What offset `b` holds after a successful read of the `n` offsets from `a` up: the byte it held, less the four
flags when it is `WK_SRC`'s, the read covers it and `WAKE_SRC_READ_CLEARS` (R66). -/
def State.byteAfterRead (s : State) (a : Byte) (n b : Nat) : Byte :=
  if s.params.wakeSrcReadClears = true ∧ b = s.params.aWkSrc.toNat ∧ a.toNat ≤ b ∧ b < a.toNat + n then
    Memory.read s.reg b &&&
      ~~~((1#8 <<< s.params.bWuIa.val) ||| (1#8 <<< s.params.bXWu.val) ||| (1#8 <<< s.params.bYWu.val) |||
        (1#8 <<< s.params.bZWu.val))
  else Memory.read s.reg b

/-- The effect of one successful `MemRead(a, n)` (R66) on top of `RESP`: one outcome used, one record entry, the
registers as `byteAfterRead` says, nothing else. -/
def AfterOneRead (a : Byte) (n : Nat) (s t : State) : Prop :=
  OnlyBusEffects s t ∧ t.freeCount = s.freeCount ∧ t.busPlan = s.busPlan.drop 1 ∧
    t.trace = .busRead s.params.devAddr a n true :: s.trace ∧
    ∀ b : Byte, t.regAt b = s.byteAfterRead a n b.toNat

/-- The registers after a failed `MemRead(a, n)`: as they were, or with the clearing side effect done, "unspecified
(either)" (R66). -/
def RegsAfterFailedRead (a : Byte) (n : Nat) (s t : State) : Prop :=
  (∀ b : Byte, t.regAt b = s.regAt b) ∨ ∀ b : Byte, t.regAt b = s.byteAfterRead a n b.toNat

/-- A command whose one `MemRead(a, n)` failed (R66, R167): BUS_ERROR, and nothing else happened. -/
def AfterFailedRead (a : Byte) (n : Nat) (rest : List BusOutcome) (s t : State) : Prop :=
  OnlyBusErrorEffects s t ∧ t.busPlan = rest ∧ t.trace = .busRead s.params.devAddr a n false :: s.trace ∧
    RegsAfterFailedRead a n s t

/-- The effect of one successful `RMW(a, mask, v)` (R68) on top of `RESP`: a read, then a write of
`(old & ~mask) | (v & mask)`, every other register as it was. -/
def AfterOneRmw (a mask v : Byte) (s t : State) : Prop :=
  OnlyBusEffects s t ∧ t.freeCount = s.freeCount ∧ t.busPlan = s.busPlan.drop 2 ∧
    t.trace =
      .busWrite s.params.devAddr a ((s.regAt a &&& ~~~mask) ||| (v &&& mask)) true ::
        .busRead s.params.devAddr a 1 true :: s.trace ∧
    t.regAt a = (s.regAt a &&& ~~~mask) ||| (v &&& mask) ∧ RegsUnchangedOutside [a] s t

/-- A command whose one `RMW(a, mask, v)` failed at its read (`n = 0`: nothing written) or at its write (`n = 1`:
the register holds any byte) (R66 to R68, R167). -/
def AfterFailedRmw (n : Nat) (a mask v : Byte) (rest : List BusOutcome) (s t : State) : Prop :=
  OnlyBusErrorEffects s t ∧ t.busPlan = rest ∧ RegsUnchangedOutside [a] s t ∧
    (n = 0 → t.trace = .busRead s.params.devAddr a 1 false :: s.trace ∧ RegsAfterFailedRead a 1 s t) ∧
    (n = 1 → t.trace =
      .busWrite s.params.devAddr a ((s.regAt a &&& ~~~mask) ||| (v &&& mask)) false ::
        .busRead s.params.devAddr a 1 true :: s.trace)

/-- All pins are at the level of `k` (R35). -/
def State.PinsAt (s : State) (k : OutputKind) : Prop :=
  s.pinOnboard = List.replicate s.params.nOnboard k.onboardLevel ∧ s.pinExt = k.extLevel

/-- The kind of pin level the flag `active` stands for. -/
def State.pinKind (s : State) : OutputKind := if s.active then .active else .inactive

/-- The most recent pin write of an output record. -/
def lastPins : List Obs → Option OutputKind
  | [] => none
  | .pins _ k :: _ => some k
  | .busRead _ _ _ _ :: rest => lastPins rest
  | .busWrite _ _ _ _ :: rest => lastPins rest
  | .evt _ :: rest => lastPins rest

/-- `RESP` has the layout of rule R22: a status code of rule R165, `RESP[55:48]` zero, and no data with any status
but OK (R98). -/
def State.RespOk (s : State) : Prop :=
  ∃ st d, s.resp = respWord st d ∧ (st ≠ .ok → d = 0#48)

/-- A lit indicator is about to be cleared: its deadline lies ahead, by at most one duration, and under the
blocking implementation the main context is on hold until then (R141, R142, R147). -/
def State.PulseBounded (s : State) : Prop :=
  s.active = true →
    s.now < s.deadline ∧ s.deadline ≤ s.now + s.params.durationMs ∧
      (s.params.pulseImpl = .blocking → s.hold = .block s.deadline)

/-- A hold is one that `Settle` had no reason to lift (R31, R142). -/
def State.HoldPending (s : State) : Prop :=
  match s.hold with
  | .none => True
  | .sleep u => s.now < u
  | .idle u =>
    s.params.strategy = .interrupt ∧ s.now < u ∧ ¬(s.params.idleWakesOnIrq = true ∧ s.irqFlag = true)
  | .block u => s.params.pulseImpl = .blocking ∧ s.active = true ∧ u = s.deadline

/-- The invariant of a run. -/
structure State.Inv (s : State) : Prop where
  /-- The deployment is admissible (R9, R10). -/
  params : s.params.admissible = true
  /-- The register space is in canonical form (R39). -/
  memory : Memory.wf s.reg = true
  /-- `RESP` has its layout (R22, R98, R165). -/
  resp : s.RespOk
  /-- The pins are at the level the flag `active` stands for (R25, R34, R35). -/
  pins : s.PinsAt s.pinKind
  /-- The last pin write recorded is the one the pins show. -/
  recorded : lastPins s.trace = some s.pinKind
  /-- `attached = 1` "implies `halted = 0` and `STRATEGY = interrupt`" (R174, R92). -/
  attached : s.attached = true → s.halted = false ∧ s.params.strategy = .interrupt
  /-- No handler ever runs under the polling strategy (R92), so its flag stays clear. -/
  irqFlag : s.irqFlag = true → s.params.strategy = .interrupt
  /-- After a shutdown the block is dark, deaf and not waiting (R201). -/
  halted : s.halted = true → s.attached = false ∧ s.active = false ∧ s.hold = .none
  /-- The indicator is never left lit (R147). -/
  pulse : s.PulseBounded
  /-- No hold is kept that should have been lifted (R31). -/
  hold : s.HoldPending

end Sys2Proof.Machine
end

