-- ==== Sys2Proof/Certificates/Slice0/Obligations.lean ====
section
/-! DEFINITION. The statements for the provers. A statement about every state is a statement about every deployment
too: the parameters are a field of the state (R9). Every statement that names registers has the premise that the
register space is in canonical form (`Memory.wf`), which `StepKeepsInvariant` keeps. -/

open Sys2Proof Sys2Proof.Machine

/-! ### Encoding -/

/-- R85, R86, R88, R89: every command is read back from its word, in range or not. -/
def Obligations.DecodeEncodeRoundTrip : Prop :=
  ∀ i : Instr, decode (encode i) = .ok i

/-- R86, R89: a word has one meaning, so a word that decodes is the one the encoder writes. -/
def Obligations.EncodeDecodeRoundTrip : Prop :=
  ∀ (w : Word) (i : Instr), decode w = .ok i → encode i = w

/-- R90: the masks and patterns of the opcode table select exactly the words that decode to the row's command. -/
def Obligations.DecodeMatchesOpcodeTable : Prop :=
  ∀ r ∈ opcodeTable, ∀ w : Word,
    w &&& r.mask = r.pattern ↔ ∃ i, decode w = .ok i ∧ i.mnemonic = r.mnemonic

/-- R91 (a), (b): the two reasons a word alone is illegal. -/
def Obligations.IllegalWordReasons : Prop :=
  ∀ w : Word,
    (decode w = .error .unknownOpcode ↔ ∀ r ∈ opcodeTable, opcodeOf w ≠ opcodeOf r.pattern) ∧
    (decode w = .error .mbzBitSet ↔
      ∃ r ∈ opcodeTable, opcodeOf w = opcodeOf r.pattern ∧ w &&& r.mask ≠ r.pattern)

/-- Words of the specification's own examples and of rule R91, one of every family. -/
def Obligations.DecodeExampleWords : Prop :=
  decode 0x01280600#32 = .ok (.regrd 0x28#8 6#8) ∧
  decode 0x03100C04#32 = .ok (.regrmw 0x10#8 0x0C#8 0x04#8) ∧
  decode 0x10000200#32 = .ok (.cfgmode 2#4 0#4) ∧
  decode 0x1201F405#32 = .ok (.setwkths 500#16 true 1#2) ∧
  decode 0x20000000#32 = .ok .rdaccel ∧
  decode 0x3600000A#32 = .ok (.sleep 10#16) ∧
  decode 0x3F000000#32 = .ok .shutdown ∧
  decode 0x00000000#32 = .error .unknownOpcode ∧
  decode 0x01280601#32 = .error .mbzBitSet

/-- R102, R103: lines of the specification's listings and the words it gives for them. -/
def Obligations.AssembleExampleLines : Prop :=
  assembleLine "REGRMW 0x10, 0x0C, 0x04 ; c".toList = some [.cmd 0x03100C04#32] ∧
  assembleLine "CFGMODE N104, PD".toList = some [.cmd 0x10000200#32] ∧
  assembleLine "SETFS 16".toList = some [.cmd 0x11000003#32] ∧
  assembleLine "STARTIRQ 500, 2, 1".toList =
    some [.cmd 0x1201F405#32, .cmd 0x13000001#32, .cmd 0x32000000#32] ∧
  assembleLine "DRDY g".toList = some [.cmd 0x22000000#32] ∧
  assembleLine "CLEANUP".toList = some [.cmd 0x3F000000#32] ∧
  assembleLine "@tick 2".toList = some [.tick, .tick] ∧
  assembleLine "@sensor 0x1B, 0x0C".toList = some [.sensorWrite 0x1B#8 0x0C#8]

/-! ### The step -/

/-- R100, R101: an accepted word that decodes runs its instruction rule, then `Settle` once. -/
def Obligations.StepRunsDecodedCommand : Prop :=
  ∀ (s : State) (w : Word) (rest : List Event) (i : Instr),
    s.params.admissible = true → s.inbox = .cmd w :: rest → s.halted = false →
    (s.hold = .none ∨ opcodeOf w = 0x3F#8) → decode w = .ok i →
    ∃ t, exec i { s with inbox := rest } = .next t ∧ step s = .next (settle t)

/-- R168, R91: an accepted word that is illegal for any of the three reasons of R91 (its opcode, a must-be-zero bit,
the strategy of the deployment) answers ILLEGAL_CMD, then `Settle`, and nothing else. -/
def Obligations.StepAnswersIllegalWord : Prop :=
  ∀ (s : State) (w : Word) (rest : List Event),
    s.params.admissible = true → s.inbox = .cmd w :: rest → s.halted = false →
    (s.hold = .none ∨ opcodeOf w = 0x3F#8) →
    ((∃ e, decode w = .error e) ∨
      (s.params.strategy = .interrupt ∧ decode w = .ok .pollstep) ∨
      (s.params.strategy = .polling ∧
        (decode w = .ok .attach ∨ decode w = .ok .detach ∨ decode w = .ok .mainchk ∨ decode w = .ok .idle))) →
    step s = .next (settle { s with inbox := rest, resp := 0x0200000000000000#64 })

/-- R169, R93: an accepted word that is legal and out of range (a mode index above 4; a burst of no byte, of more than
six, or past offset 255) answers BAD_OPERAND, then `Settle`, and nothing else: no bus transaction is issued. -/
def Obligations.StepAnswersOutOfRangeWord : Prop :=
  ∀ (s : State) (w : Word) (rest : List Event),
    s.params.admissible = true → s.inbox = .cmd w :: rest → s.halted = false → s.hold = .none →
    ((∃ amode gmode : BitVec 4, decode w = .ok (.cfgmode amode gmode) ∧ (4 < amode.toNat ∨ 4 < gmode.toNat)) ∨
      (∃ addr len : Byte, decode w = .ok (.regrd addr len) ∧
        (len.toNat = 0 ∨ 6 < len.toNat ∨ 256 < addr.toNat + len.toNat))) →
    step s = .next (settle { s with inbox := rest, resp := 0x0300000000000000#64 })

/-- R101: a word that is not accepted changes nothing, not even `RESP`. That the model takes it from the inbox is log
entry 10. -/
def Obligations.StepStallsUnacceptedCommand : Prop :=
  ∀ (s : State) (w : Word) (rest : List Event),
    s.params.admissible = true → s.inbox = .cmd w :: rest →
    (s.halted = true ∨ (s.hold ≠ .none ∧ opcodeOf w ≠ 0x3F#8)) →
    step s = .next { s with inbox := rest }

/-- The model's interface (log entry 9): the word placed by `withFetchWord` is what the next step runs. -/
def Obligations.StepRunsPlacedWord : Prop :=
  ∀ (s : State) (w : Word) (i : Instr), s.params.admissible = true → decode w = .ok i →
    ∃ t, exec i { s with hold := .none, halted := false } = .next t ∧
      step (s.withFetchWord 32 w.toNat) = .next (settle t)

/-- Every event the environment may produce (R41) is answered by a next state; so is no event at all, which is log
entry 7. -/
def Obligations.StepAnswersAdmissibleEvents : Prop :=
  ∀ s : State, s.params.admissible = true →
    (∀ e rest, s.inbox = e :: rest →
      (e = .intRise → (s.regAt s.params.aIntRoute).getLsbD s.params.bRoute.val = true) ∧
      (∀ a v, e = .sensorWrite a v → isConfigOffset s.params a = false)) →
    ∃ t, step s = .next t

/-- R41: a change of a volatile register stores the byte; a change of a configuration register and an edge of the
un-routed line are not admissible, and the model refuses them (log entry 8). -/
def Obligations.SensorEventsAndTheirGates : Prop :=
  ∀ (s : State) (rest : List Event), s.params.admissible = true →
    (∀ a v : Byte, s.inbox = .sensorWrite a v :: rest → isConfigOffset s.params a = false →
      Memory.wf s.reg = true →
      ∃ t, step s = .next t ∧ t = { s with inbox := rest, reg := t.reg } ∧ t.regAt a = v ∧
        RegsUnchangedOutside [a] s t) ∧
    (∀ a v : Byte, s.inbox = .sensorWrite a v :: rest → isConfigOffset s.params a = true →
      step s = .refused (.inadmissibleSensorWrite a)) ∧
    (s.inbox = .intRise :: rest → (s.regAt s.params.aIntRoute).getLsbD s.params.bRoute.val = false →
      step s = .refused .inadmissibleIntRise)

/-- R146: a tick in any state advances `now` by one and settles. -/
def Obligations.TickAdvancesAndSettles : Prop :=
  ∀ (s : State) (rest : List Event), s.params.admissible = true → s.inbox = .tick :: rest →
    step s = .next (settle { s with inbox := rest, now := s.now + 1 })

/-- R196, R197: `Reset` installs every reset value and leaves `now` and the sensor registers alone. The record entry
is the pin write of rule R61. -/
def Obligations.ResetInstallsResetValues : Prop :=
  ∀ (s : State) (rest : List Event), s.params.admissible = true → s.inbox = .reset :: rest →
    step s = .next
      { s with
        inbox := rest, resp := 0#64, fsCache := s.params.fsReset, lastX := 0#16, active := false, deadline := 0,
        irqFlag := false, attached := false, busFault := false, halted := false, hold := .none,
        pinOnboard := List.replicate s.params.nOnboard .high, pinExt := .low,
        trace := .pins s.now .inactive :: s.trace }

/-! ### The read-modify-write -/

/-- R68: what a read-modify-write guarantees on success (the write is issued even when it changes nothing), that a
failed read writes nothing, and that a failed write was the write of the merged byte. -/
def Obligations.RmwMergesUnderTheMask : Prop :=
  ∀ (a mask v : Byte) (s : State), Memory.wf s.reg = true →
    (s.BusOk 2 → ∃ new t, rmw a mask v s = .ok (s.regAt a, new) t ∧
      new &&& ~~~mask = s.regAt a &&& ~~~mask ∧ new &&& mask = v &&& mask ∧
      t.regAt a = new ∧ RegsUnchangedOutside [a] s t ∧
      t.trace = .busWrite s.params.devAddr a new true :: .busRead s.params.devAddr a 1 true :: s.trace) ∧
    (∀ rest, s.BusFailsAfter 0 rest → ∃ t, rmw a mask v s = .err t ∧
      t.trace = .busRead s.params.devAddr a 1 false :: s.trace ∧ RegsAfterFailedRead a 1 s t) ∧
    (∀ rest, s.BusFailsAfter 1 rest → ∃ t, rmw a mask v s = .err t ∧
      t.trace = .busWrite s.params.devAddr a ((s.regAt a &&& ~~~mask) ||| (v &&& mask)) false ::
        .busRead s.params.devAddr a 1 true :: s.trace ∧ RegsUnchangedOutside [a] s t)

/-! ### Raw register access -/

/-- R110: REGRD answers the bytes of the burst, refuses operands out of range, and reports a failed transaction. -/
def Obligations.RegrdReturnsTheBytes : Prop :=
  ∀ (addr len : Byte) (s : State), Memory.wf s.reg = true →
    (1 ≤ len.toNat → len.toNat ≤ 6 → addr.toNat + len.toNat ≤ 256 → s.BusOk 1 →
      ∃ t, exec (.regrd addr len) s = .next t ∧ AfterOneRead addr len.toNat s t ∧
        (∀ i < len.toNat, t.resp.extractLsb' (8 * i) 8 = Memory.read s.reg (addr.toNat + i)) ∧
        (∀ k, 8 * len.toNat ≤ k → t.resp.getLsbD k = false)) ∧
    (len.toNat = 0 ∨ 6 < len.toNat ∨ 256 < addr.toNat + len.toNat →
      exec (.regrd addr len) s = .next { s with resp := 0x0300000000000000#64 }) ∧
    (∀ rest, 1 ≤ len.toNat → len.toNat ≤ 6 → addr.toNat + len.toNat ≤ 256 → s.BusFailsAfter 0 rest →
      ∃ t, exec (.regrd addr len) s = .next t ∧ AfterFailedRead addr len.toNat rest s t)

/-- R111: REGWR stores the byte blindly; after a failed write the register is unspecified, every other as before. -/
def Obligations.RegwrStoresTheByte : Prop :=
  ∀ (addr data : Byte) (s : State), Memory.wf s.reg = true →
    (s.BusOk 1 → ∃ t, exec (.regwr addr data) s = .next t ∧ OnlyBusEffects s t ∧
      t.resp = data.setWidth 64 ∧ t.freeCount = s.freeCount ∧ t.busPlan = s.busPlan.drop 1 ∧
      t.trace = .busWrite s.params.devAddr addr data true :: s.trace ∧
      t.regAt addr = data ∧ RegsUnchangedOutside [addr] s t) ∧
    (∀ rest, s.BusFailsAfter 0 rest → ∃ t, exec (.regwr addr data) s = .next t ∧ OnlyBusErrorEffects s t ∧
      t.busPlan = rest ∧ t.trace = .busWrite s.params.devAddr addr data false :: s.trace ∧
      RegsUnchangedOutside [addr] s t)

/-- R112: REGRMW, the bit-field multiplex, with `old : new` as its response. -/
def Obligations.RegrmwMultiplexesTheField : Prop :=
  ∀ (addr mask value : Byte) (s : State), Memory.wf s.reg = true →
    (s.BusOk 2 → ∃ t, exec (.regrmw addr mask value) s = .next t ∧ AfterOneRmw addr mask value s t ∧
      t.resp = 0#48 ++ s.regAt addr ++ ((s.regAt addr &&& ~~~mask) ||| (value &&& mask))) ∧
    (∀ n rest, n < 2 → s.BusFailsAfter n rest →
      ∃ t, exec (.regrmw addr mask value) s = .next t ∧ AfterFailedRmw n addr mask value rest s t)

/-! ### Sensor configuration -/

/-- R120: CFGMODE writes the accelerometer's mode field, then the gyroscope's, and nothing else; indices above 4 are
out of range; a failure leaves what was done before it. -/
def Obligations.CfgmodeWritesBothModes : Prop :=
  ∀ s : State, s.params.admissible = true → Memory.wf s.reg = true →
    (∀ am gm : Mode,
      let n1 := (s.regAt s.params.aXlCtrl &&& ~~~s.params.mMode) |||
        (((modeCode s.params am).setWidth 8 <<< s.params.sMode.val) &&& s.params.mMode)
      let n2 := (s.regAt s.params.aGCtrl &&& ~~~s.params.mMode) |||
        (((modeCode s.params gm).setWidth 8 <<< s.params.sMode.val) &&& s.params.mMode)
      (s.BusOk 4 → ∃ t, exec (.cfgmode (modeIndex am) (modeIndex gm)) s = .next t ∧ OnlyBusEffects s t ∧
        t.resp = 0#48 ++ n2 ++ n1 ∧ t.regAt s.params.aXlCtrl = n1 ∧ t.regAt s.params.aGCtrl = n2 ∧
        RegsUnchangedOutside [s.params.aXlCtrl, s.params.aGCtrl] s t ∧
        t.freeCount = s.freeCount ∧ t.busPlan = s.busPlan.drop 4 ∧
        t.trace = .busWrite s.params.devAddr s.params.aGCtrl n2 true ::
          .busRead s.params.devAddr s.params.aGCtrl 1 true ::
          .busWrite s.params.devAddr s.params.aXlCtrl n1 true ::
          .busRead s.params.devAddr s.params.aXlCtrl 1 true :: s.trace) ∧
      (∀ n rest, n < 4 → s.BusFailsAfter n rest →
        ∃ t, exec (.cfgmode (modeIndex am) (modeIndex gm)) s = .next t ∧ OnlyBusErrorEffects s t ∧
          t.busPlan = rest ∧ RegsUnchangedOutside [s.params.aXlCtrl, s.params.aGCtrl] s t ∧
          (n = 0 → t.regAt s.params.aXlCtrl = s.regAt s.params.aXlCtrl) ∧
          (2 ≤ n → t.regAt s.params.aXlCtrl = n1) ∧
          (n ≤ 2 → t.regAt s.params.aGCtrl = s.regAt s.params.aGCtrl))) ∧
    (∀ amode gmode : BitVec 4, 4 < amode.toNat ∨ 4 < gmode.toNat →
      exec (.cfgmode amode gmode) s = .next { s with resp := 0x0300000000000000#64 })

/-- R121: SETFS merges the range into its field, preserves the mode bits exactly, and updates `fs_cache` only after
both transactions succeeded. -/
def Obligations.SetfsMergesTheRange : Prop :=
  ∀ (g : FsRange) (s : State), s.params.admissible = true → Memory.wf s.reg = true →
    let v := (fsCode s.params g).setWidth 8 <<< s.params.sFs.val
    (s.BusOk 2 → ∃ t, exec (.setfs g) s = .next t ∧
      AfterOneRmw s.params.aXlCtrl s.params.mFs v { s with fsCache := g } t ∧
      t.resp = (t.regAt s.params.aXlCtrl).setWidth 64 ∧
      t.regAt s.params.aXlCtrl &&& s.params.mMode = s.regAt s.params.aXlCtrl &&& s.params.mMode) ∧
    (∀ n rest, n < 2 → s.BusFailsAfter n rest →
      ∃ t, exec (.setfs g) s = .next t ∧ AfterFailedRmw n s.params.aXlCtrl s.params.mFs v rest s t)

/-- R123: the threshold function over the whole range of requests: the closed formula under `half_up`, no tie at
±2g, ±4g and ±8g, ties at ±16g exactly at the odd multiples of 125, the value between 1 and 63, and the exact
clamping at both boundaries. -/
def Obligations.ThresholdFunction : Prop :=
  ∀ (t : Nat) (g : FsRange),
    thsValue .halfUp t g = clampNat ((16 * t + 125 * fsG g) / (250 * fsG g)) 1 63 ∧
    (g ≠ .g16 → thsValue .halfEven t g = thsValue .halfUp t g) ∧
    ((∀ k, t ≠ 125 * (2 * k + 1)) → thsValue .halfEven t g = thsValue .halfUp t g) ∧
    (∀ k, t = 125 * (2 * k + 1) →
      thsValue .halfEven t .g16 = clampNat (if k % 2 = 0 then k else k + 1) 1 63) ∧
    ∀ tie, 1 ≤ thsValue tie t g ∧ thsValue tie t g ≤ 63 ∧
      (8 * t ≤ 125 * fsG g → thsValue tie t g = 1) ∧ (63 * (125 * fsG g) ≤ 8 * t → thsValue tie t g = 63)

/-- R124: the effective threshold is at most 126000 eighths of a mg, and for requests inside the representable
interval it is within half a step of the request. -/
def Obligations.EffectiveThresholdBounds : Prop :=
  ∀ (tie : TieRule) (t : Nat) (g : FsRange),
    eff8 (thsValue tie t g) g = thsValue tie t g * fsG g * 125 ∧
    eff8 (thsValue tie t g) g ≤ 126000 ∧
    (125 * fsG g ≤ 8 * t → 8 * t ≤ 63 * (125 * fsG g) →
      2 * (8 * t) ≤ 2 * eff8 (thsValue tie t g) g + 125 * fsG g ∧
      2 * eff8 (thsValue tie t g) g ≤ 2 * (8 * t) + 125 * fsG g)

/-- R122: SETWKTHS writes the threshold, the duration and the interrupt bits, each in its field and in that order,
preserves every other bit (also where registers share an offset), and reports the effective threshold; a failure
leaves the earlier writes done and the later ones undone. -/
def Obligations.SetwkthsWritesThreeFields : Prop :=
  ∀ (thr : BitVec 16) (hp : Bool) (dur : BitVec 2) (s : State),
    s.params.admissible = true → Memory.wf s.reg = true →
    let p := s.params
    let rv := thsValue p.tieRule thr.toNat s.fsCache
    let ths := BitVec.ofNat 8 rv <<< p.sThs.val
    let durBits := dur.setWidth 8 <<< p.sDur.val
    let cfgMask := (1#8 <<< p.bIntEn.val) ||| (1#8 <<< p.bHpSel.val)
    let cfgBits := (1#8 <<< p.bIntEn.val) ||| (if hp then 1#8 <<< p.bHpSel.val else 0#8)
    let fieldsAt : Byte → Byte := fun a =>
      (if a = p.aWkThs then p.mThs else 0#8) ||| (if a = p.aWkDur then p.mDur else 0#8) |||
        (if a = p.aIntCfg then cfgMask else 0#8)
    (s.BusOk 6 → ∃ t, exec (.setwkths thr hp dur) s = .next t ∧ OnlyBusEffects s t ∧
      t.resp.toNat = rv * fsG s.fsCache * 125 * 256 + rv ∧
      t.regAt p.aWkThs &&& p.mThs = ths ∧ t.regAt p.aWkDur &&& p.mDur = durBits ∧
      t.regAt p.aIntCfg &&& cfgMask = cfgBits ∧
      (∀ a : Byte, t.regAt a &&& ~~~fieldsAt a = s.regAt a &&& ~~~fieldsAt a) ∧
      t.freeCount = s.freeCount ∧ t.busPlan = s.busPlan.drop 6) ∧
    (∀ n rest, n < 6 → s.BusFailsAfter n rest →
      ∃ t, exec (.setwkths thr hp dur) s = .next t ∧ OnlyBusErrorEffects s t ∧ t.busPlan = rest ∧
        RegsUnchangedOutside ([p.aWkThs, p.aWkDur, p.aIntCfg].take ((n + 1) / 2)) s t ∧
        (2 ≤ n → (n = 3 → p.aWkDur ≠ p.aWkThs) → (n = 5 → p.aIntCfg ≠ p.aWkThs) →
          t.regAt p.aWkThs &&& p.mThs = ths) ∧
        (4 ≤ n → (n = 5 → p.aIntCfg ≠ p.aWkDur) → t.regAt p.aWkDur &&& p.mDur = durBits))

/-- R125: WKINT sets the one routing bit to its operand, is idempotent, and reports a failed transaction. -/
def Obligations.WkintRoutesTheInterrupt : Prop :=
  ∀ (en : Bool) (s : State), Memory.wf s.reg = true →
    let m := 1#8 <<< s.params.bRoute.val
    let v := if en then m else 0#8
    (s.BusOk 2 → ∃ t, exec (.wkint en) s = .next t ∧ AfterOneRmw s.params.aIntRoute m v s t ∧
      t.resp = (t.regAt s.params.aIntRoute).setWidth 64 ∧
      (t.regAt s.params.aIntRoute).getLsbD s.params.bRoute.val = en ∧
      (s.BusOk 4 → ∃ u, exec (.wkint en) t = .next u ∧ AfterOneRmw s.params.aIntRoute m v t u ∧
        ∀ a : Byte, u.regAt a = t.regAt a)) ∧
    (∀ n rest, n < 2 → s.BusFailsAfter n rest →
      ∃ t, exec (.wkint en) s = .next t ∧ AfterFailedRmw n s.params.aIntRoute m v rest s t)

/-! ### Sensor reads -/

/-- R130, R135, R62: RDACCEL answers the six data bytes as three little-endian words, X lowest, and keeps no
history. -/
def Obligations.RdaccelReturnsTheSample : Prop :=
  ∀ s : State, s.params.admissible = true → Memory.wf s.reg = true →
    let b := fun i : Nat => Memory.read s.reg (s.params.aOutXl.toNat + i)
    (s.BusOk 1 → ∃ t, exec .rdaccel s = .next t ∧ AfterOneRead s.params.aOutXl 6 s t ∧
      t.resp = 0#16 ++ (b 5 ++ b 4) ++ (b 3 ++ b 2) ++ (b 1 ++ b 0)) ∧
    (∀ rest, s.BusFailsAfter 0 rest →
      ∃ t, exec .rdaccel s = .next t ∧ AfterFailedRead s.params.aOutXl 6 rest s t)

/-- R131, R132: DRDYXL answers bit 0 of the status byte and DRDYG bit 1, whatever its other bits. -/
def Obligations.DataReadyTestsOneBit : Prop :=
  ∀ s : State, Memory.wf s.reg = true →
    (s.BusOk 1 →
      (∃ t, exec .drdyxl s = .next t ∧ AfterOneRead s.params.aStatus 1 s t ∧
        t.resp = if (s.regAt s.params.aStatus).getLsbD 0 then 1#64 else 0#64) ∧
      (∃ t, exec .drdyg s = .next t ∧ AfterOneRead s.params.aStatus 1 s t ∧
        t.resp = if (s.regAt s.params.aStatus).getLsbD 1 then 1#64 else 0#64)) ∧
    (∀ rest, s.BusFailsAfter 0 rest →
      (∃ t, exec .drdyxl s = .next t ∧ AfterFailedRead s.params.aStatus 1 rest s t) ∧
      (∃ t, exec .drdyg s = .next t ∧ AfterFailedRead s.params.aStatus 1 rest s t))

/-- R133: WKDET answers the overall-wake flag from exactly one read, which clears the flags when the parameter says
so. -/
def Obligations.WkdetReportsOverallWake : Prop :=
  ∀ s : State, Memory.wf s.reg = true →
    (s.BusOk 1 → ∃ t, exec .wkdet s = .next t ∧ AfterOneRead s.params.aWkSrc 1 s t ∧
      t.resp = if (s.regAt s.params.aWkSrc).getLsbD s.params.bWuIa.val then 1#64 else 0#64) ∧
    (∀ rest, s.BusFailsAfter 0 rest →
      ∃ t, exec .wkdet s = .next t ∧ AfterFailedRead s.params.aWkSrc 1 rest s t)

/-- R134, R136: WKSRC answers the raw byte whole with the four independent flags above it. -/
def Obligations.WksrcReportsEverySource : Prop :=
  ∀ s : State, Memory.wf s.reg = true →
    let v := s.regAt s.params.aWkSrc
    (s.BusOk 1 → ∃ t, exec .wksrc s = .next t ∧ AfterOneRead s.params.aWkSrc 1 s t ∧
      t.resp = 0#52 ++ BitVec.ofBool (v.getLsbD s.params.bZWu.val) ++ BitVec.ofBool (v.getLsbD s.params.bYWu.val) ++
        BitVec.ofBool (v.getLsbD s.params.bXWu.val) ++ BitVec.ofBool (v.getLsbD s.params.bWuIa.val) ++ v) ∧
    (∀ rest, s.BusFailsAfter 0 rest →
      ∃ t, exec .wksrc s = .next t ∧ AfterFailedRead s.params.aWkSrc 1 rest s t)

/-- R204: one read per wake event. When reads clear, a second WKDET right after the first reports 0, and when they
do not it reports the same as the first. -/
def Obligations.SecondWakeReadMayFindNothing : Prop :=
  ∀ s t u : State, Memory.wf s.reg = true → s.BusOk 2 →
    exec .wkdet s = .next t → exec .wkdet t = .next u →
    (s.params.wakeSrcReadClears = true → u.resp = 0#64) ∧ (s.params.wakeSrcReadClears = false → u.resp = t.resp)

/-! ### The pulse timer -/

/-- R143, R141: PULSE lights every pin, sets `active` and the deadline, and under the blocking implementation puts
the main context on hold; everything else is as before. -/
def Obligations.PulseStartsOneDuration : Prop :=
  ∀ s : State,
    exec .pulse s = .next
      { s with
        resp := 0#64, active := true, deadline := s.now + s.params.durationMs,
        pinOnboard := List.replicate s.params.nOnboard .low, pinExt := .high,
        hold := (match s.params.pulseImpl with
          | .deadline => s.hold
          | .blocking => .block (s.now + s.params.durationMs)),
        trace := .pins s.now .active :: s.trace }

/-- R144: POLLSTEP under the polling strategy: not ready, nothing happens; ready, it reads one sample, triggers when
`|x - last_x| > THRESHOLD` over the integers, and keeps the sample. A failed read changes neither `last_x` nor the
pins. Under the interrupt strategy it is illegal (R92). `x` is read after the status byte, whose read may itself have
cleared wake flags where the deployment lets the registers coincide. -/
def Obligations.PollstepDetectsTheDelta : Prop :=
  ∀ s : State, s.params.admissible = true → Memory.wf s.reg = true →
    let p := s.params
    let ready := (s.regAt p.aStatus).getLsbD 0
    let x : AxisWord := s.byteAfterRead p.aStatus 1 (p.aOutXl.toNat + 1) ++ s.byteAfterRead p.aStatus 1 p.aOutXl.toNat
    let trig := decide (p.threshold < (x.toInt - s.lastX.toInt).natAbs)
    (p.strategy = .polling → s.BusOk 1 → ready = false →
      ∃ t, exec .pollstep s = .next t ∧ AfterOneRead p.aStatus 1 s t ∧ t.resp = 0#64) ∧
    (p.strategy = .polling → s.BusOk 2 → ready = true →
      ∃ t, exec .pollstep s = .next t ∧
        t.resp = 0#32 ++ x ++ 0#14 ++ BitVec.ofBool trig ++ 1#1 ∧
        t.trace = (if trig then [.pins s.now .active] else []) ++
          .busRead p.devAddr p.aOutXl 6 true :: .busRead p.devAddr p.aStatus 1 true :: s.trace ∧
        t.busPlan = s.busPlan.drop 2 ∧
        (∀ b : Byte, t.regAt b = s.byteAfterRead p.aStatus 1 b.toNat &&& s.byteAfterRead p.aOutXl 6 b.toNat) ∧
        t = { s with
              resp := t.resp, trace := t.trace, busPlan := t.busPlan, reg := t.reg, lastX := x,
              active := s.active || trig,
              deadline := (if trig then s.now + p.durationMs else s.deadline),
              pinOnboard := (if trig then List.replicate p.nOnboard .low else s.pinOnboard),
              pinExt := (if trig then .high else s.pinExt),
              hold := (if trig = true ∧ p.pulseImpl = .blocking then .block (s.now + p.durationMs) else s.hold) }) ∧
    (∀ n rest, p.strategy = .polling → n < 2 → (n = 1 → ready = true) → s.BusFailsAfter n rest →
      ∃ t, exec .pollstep s = .next t ∧ OnlyBusErrorEffects s t ∧ t.busPlan = rest ∧
        RegsUnchangedOutside [p.aWkSrc] s t) ∧
    (p.strategy = .interrupt → exec .pollstep s = .next { s with resp := 0x0200000000000000#64 })

/-- R145: SLEEP holds the main context until `now + ms` and changes nothing else. -/
def Obligations.SleepHoldsTheMainContext : Prop :=
  ∀ (ms : BitVec 16) (s : State),
    exec (.sleep ms) s = .next { s with resp := 0#64, hold := .sleep (s.now + ms.toNat) }

/-- R142: what `Settle` clears and what it lifts, for every state, and that it changes nothing else. -/
def Obligations.SettleClearsAndLifts : Prop :=
  ∀ s : State,
    let clear := decide (s.params.pulseImpl = .deadline ∧ s.active = true ∧ s.deadline ≤ s.now)
    let unblock := match s.hold with
      | .block u => decide (u ≤ s.now)
      | _ => false
    let lift := match s.hold with
      | .none => false
      | .block u => decide (u ≤ s.now)
      | .sleep u => decide (u ≤ s.now)
      | .idle u => decide (u ≤ s.now) || (s.params.idleWakesOnIrq && s.irqFlag)
    settle s =
      { s with
        active := s.active && !(clear || unblock),
        hold := (if lift then .none else s.hold),
        pinOnboard := (if clear || unblock then List.replicate s.params.nOnboard .high else s.pinOnboard),
        pinExt := (if clear || unblock then .low else s.pinExt),
        trace := (if unblock then [.pins s.now .inactive] else []) ++ (if clear then [.pins s.now .inactive] else []) ++
          s.trace }

/-- R147, R142: the end of a pulse. From a state of a run in which the indicator is lit, with nothing but ticks arriving,
the pins stay at the active level until exactly the deadline, go inactive then, and change exactly once. Both
implementations meet it. -/
def Obligations.PulseEndsExactlyAtTheDeadline : Prop :=
  ∀ (s : State) (k : Nat), s.Inv → s.active = true → s.now + k ≤ s.deadline →
    s.inbox = List.replicate k .tick →
    ∃ t : State, Sys2Proof.core.run k s = .next t ∧ t.now = s.now + k ∧
      t.active = decide (s.now + k < s.deadline) ∧ t.PinsAt t.pinKind ∧
      t.trace = (if s.now + k < s.deadline then [] else [.pins s.deadline .inactive]) ++ s.trace

/-- R31: "Every hold is therefore lifted by enough `Tick` events", and by no fewer than bring `now` to its time. -/
def Obligations.EveryHoldIsLiftedByTicks : Prop :=
  ∀ (s : State) (u k : Nat), s.Inv → (s.hold = .sleep u ∨ s.hold = .idle u ∨ s.hold = .block u) →
    s.now + k ≤ u → s.inbox = List.replicate k .tick →
    ∃ t : State, Sys2Proof.core.run k s = .next t ∧ t.now = s.now + k ∧
      t.hold = if s.now + k < u then s.hold else .none

/-! ### Interrupt control -/

/-- R155, R156, R92: ATTACH and DETACH set and clear `attached` and touch nothing else; under the polling strategy
both are illegal. -/
def Obligations.AttachAndDetachSetOneFlag : Prop :=
  ∀ s : State,
    (s.params.strategy = .interrupt →
      exec .attach s = .next { s with resp := 0#64, attached := true } ∧
      exec .detach s = .next { s with resp := 0#64, attached := false }) ∧
    (s.params.strategy = .polling →
      exec .attach s = .next { s with resp := 0x0200000000000000#64 } ∧
      exec .detach s = .next { s with resp := 0x0200000000000000#64 })

/-- R157: MAINCHK makes no bus access when the flag is clear; otherwise one read, and the flag is cleared only after
that read succeeded. Illegal under the polling strategy (R92). -/
def Obligations.MainchkInspectsAndClearsTheFlag : Prop :=
  ∀ s : State, Memory.wf s.reg = true →
    (s.params.strategy = .interrupt → s.irqFlag = false → exec .mainchk s = .next { s with resp := 0#64 }) ∧
    (s.params.strategy = .interrupt → s.irqFlag = true → s.BusOk 1 →
      ∃ t, exec .mainchk s = .next t ∧ AfterOneRead s.params.aWkSrc 1 { s with irqFlag := false } t ∧
        t.resp = if (s.regAt s.params.aWkSrc).getLsbD s.params.bWuIa.val then 3#64 else 1#64) ∧
    (∀ rest, s.params.strategy = .interrupt → s.irqFlag = true → s.BusFailsAfter 0 rest →
      ∃ t, exec .mainchk s = .next t ∧ AfterFailedRead s.params.aWkSrc 1 rest s t) ∧
    (s.params.strategy = .polling → exec .mainchk s = .next { s with resp := 0x0200000000000000#64 })

/-- R158: IDLE holds the main context for at most the timeout and changes nothing else. Illegal under the polling
strategy (R92). -/
def Obligations.IdleHoldsUntilTheTimeout : Prop :=
  ∀ s : State,
    (s.params.strategy = .interrupt →
      exec .idle s = .next { s with resp := 0#64, hold := .idle (s.now + s.params.idleTimeoutMs) }) ∧
    (s.params.strategy = .polling → exec .idle s = .next { s with resp := 0x0200000000000000#64 })

/-- R159: SHUTDOWN un-routes, detaches, forces the indicator inactive, clears the hold and halts, in every state and
whether or not the un-routing succeeds; `irq_flag`, `last_x`, `fs_cache` and `deadline` keep their values. -/
def Obligations.ShutdownCleansUpOnEveryPath : Prop :=
  ∀ s : State, Memory.wf s.reg = true →
    let m := 1#8 <<< s.params.bRoute.val
    let new := s.regAt s.params.aIntRoute &&& ~~~m
    (s.BusOk 2 → ∃ t, exec .shutdown s = .next t ∧
      t = { s with
            resp := 0#64, attached := false, active := false, hold := .none, halted := true,
            pinOnboard := List.replicate s.params.nOnboard .high, pinExt := .low, reg := t.reg,
            busPlan := s.busPlan.drop 2,
            trace := .pins s.now .inactive :: .busWrite s.params.devAddr s.params.aIntRoute new true ::
              .busRead s.params.devAddr s.params.aIntRoute 1 true :: s.trace } ∧
      t.regAt s.params.aIntRoute = new ∧ RegsUnchangedOutside [s.params.aIntRoute] s t) ∧
    (∀ n rest, n < 2 → s.BusFailsAfter n rest → ∃ t, exec .shutdown s = .next t ∧
      t = { s with
            resp := 0x0100000000000000#64, attached := false, active := false, hold := .none, halted := true,
            busFault := true, pinOnboard := List.replicate s.params.nOnboard .high, pinExt := .low, reg := t.reg,
            busPlan := rest, trace := t.trace, freeCount := t.freeCount } ∧
      RegsUnchangedOutside [s.params.aIntRoute] s t ∧ (n = 0 → RegsAfterFailedRead s.params.aIntRoute 1 s t))

/-! ### The interrupt -/

/-- R174, R176: a routed rising edge with a handler attached runs the handler as one step: one read of `WK_SRC`, one
record on `EVT`, a pulse exactly when the X flag is set, the flag in every case, then `Settle`. A blocking pulse takes
its whole duration inside the step. -/
def Obligations.HandlerPulsesOnTheXFlag : Prop :=
  ∀ (s : State) (rest : List Event),
    s.params.admissible = true → Memory.wf s.reg = true → s.inbox = .intRise :: rest →
    (s.regAt s.params.aIntRoute).getLsbD s.params.bRoute.val = true → s.attached = true → s.BusOk 1 →
    let p := s.params
    let v := s.regAt p.aWkSrc
    let x := v.getLsbD p.bXWu.val
    let blocking := decide (p.pulseImpl = .blocking)
    let seen : List Obs :=
      .evt ⟨s.now, x, v.getLsbD p.bYWu.val, v.getLsbD p.bZWu.val, v⟩ :: .busRead p.devAddr p.aWkSrc 1 true :: s.trace
    let lit := x && !blocking
    ∃ t, step s = .next (settle t) ∧ (∀ b : Byte, t.regAt b = s.byteAfterRead p.aWkSrc 1 b.toNat) ∧
      t = { s with
            inbox := rest, irqFlag := true, busPlan := s.busPlan.drop 1, reg := t.reg,
            active := lit || (s.active && !x),
            deadline := (if x then s.now + p.durationMs else s.deadline),
            now := (if x && blocking then s.now + p.durationMs else s.now),
            pinOnboard := (if x then List.replicate p.nOnboard (if lit then .low else .high) else s.pinOnboard),
            pinExt := (if x then (if lit then .high else .low) else s.pinExt),
            trace := (if x && blocking then [.pins (s.now + p.durationMs) .inactive] else []) ++
              (if x then [.pins s.now .active] else []) ++ seen }

/-- R178: when the handler's read fails, `bus_fault` and `irq_flag` are set, and no event and no pulse follow. -/
def Obligations.HandlerReportsItsBusFailure : Prop :=
  ∀ (s : State) (rest : List Event) (plan : List BusOutcome),
    s.params.admissible = true → Memory.wf s.reg = true → s.inbox = .intRise :: rest →
    (s.regAt s.params.aIntRoute).getLsbD s.params.bRoute.val = true → s.attached = true →
    s.BusFailsAfter 0 plan →
    ∃ t, step s = .next (settle t) ∧ RegsAfterFailedRead s.params.aWkSrc 1 s t ∧
      t = { s with
            inbox := rest, irqFlag := true, busFault := true, busPlan := plan, reg := t.reg, freeCount := t.freeCount,
            trace := .busRead s.params.devAddr s.params.aWkSrc 1 false :: s.trace }

/-- R174: an edge with no handler attached is forgotten. -/
def Obligations.DetachedEdgeIsForgotten : Prop :=
  ∀ (s : State) (rest : List Event), s.params.admissible = true → s.inbox = .intRise :: rest →
    (s.regAt s.params.aIntRoute).getLsbD s.params.bRoute.val = true → s.attached = false →
    step s = .next { s with inbox := rest }

/-! ### Rules about the whole machine -/

/-- Every command of an admissible deployment answers a next state, whatever the environment does to the bus. -/
def Obligations.EveryCommandAnswersANextState : Prop :=
  ∀ (i : Instr) (s : State), s.params.admissible = true → ∃ t, exec i s = .next t

/-- R2: "the CSR unit never reads or writes pulse-timer state", the writing half, on success and on failure. -/
def Obligations.CsrUnitNeverWritesTimerState : Prop :=
  ∀ (i : Instr) (s t : State),
    (match i with
      | .regrd _ _ | .regwr _ _ | .regrmw _ _ _ | .cfgmode _ _ | .setfs _ | .setwkths _ _ _ | .wkint _ | .rdaccel
      | .drdyxl | .drdyg | .wkdet | .wksrc => True
      | _ => False) →
    exec i s = .next t →
    t = { s with
          resp := t.resp, fsCache := t.fsCache, busFault := t.busFault, reg := t.reg, busPlan := t.busPlan,
          freeCount := t.freeCount, trace := t.trace }

/-- R2: "the CSR unit never reads or writes pulse-timer state", the reading half: two states that agree on the CSR
unit's own state and on the environment get the same response and the same registers. -/
def Obligations.CsrUnitNeverReadsTimerState : Prop :=
  ∀ (i : Instr) (s s' t : State),
    (match i with
      | .regrd _ _ | .regwr _ _ | .regrmw _ _ _ | .cfgmode _ _ | .setfs _ | .setwkths _ _ _ | .wkint _ | .rdaccel
      | .drdyxl | .drdyg | .wkdet | .wksrc => True
      | _ => False) →
    s'.params = s.params → s'.reg = s.reg → s'.fsCache = s.fsCache → s'.busPlan = s.busPlan →
    s'.freeCount = s.freeCount → exec i s = .next t →
    ∃ t', exec i s' = .next t' ∧ t'.resp = t.resp ∧ t'.reg = t.reg ∧ t'.fsCache = t.fsCache ∧
      t'.busPlan = t.busPlan

/-- R23, R24, R25, R27, R28, R30, R31, R200: which commands may change which state; no command changes the
deployment, the time or the inputs to come. -/
def Obligations.OnlyTheNamedCommandsWriteEachState : Prop :=
  ∀ (i : Instr) (s t : State), exec i s = .next t →
    t.params = s.params ∧ t.now = s.now ∧ t.inbox = s.inbox ∧
    (t.fsCache ≠ s.fsCache → ∃ g, i = .setfs g) ∧
    (t.lastX ≠ s.lastX → i = .pollstep) ∧
    (t.active ≠ s.active → i = .pulse ∨ i = .pollstep ∨ i = .shutdown) ∧
    (t.deadline ≠ s.deadline → i = .pulse ∨ i = .pollstep) ∧
    (t.irqFlag ≠ s.irqFlag → i = .mainchk) ∧
    (t.attached ≠ s.attached → i = .attach ∨ i = .detach ∨ i = .shutdown) ∧
    (t.halted ≠ s.halted → i = .shutdown) ∧
    (t.hold ≠ s.hold → i = .pulse ∨ i = .pollstep ∨ i = .idle ∨ i = .shutdown ∨ ∃ ms, i = .sleep ms)

/-- R29, R167: `bus_fault` is sticky; nothing but `Reset` clears it. -/
def Obligations.BusFaultIsSticky : Prop :=
  ∀ s t : State, s.busFault = true → (∀ rest, s.inbox ≠ .reset :: rest) → step s = .next t → t.busFault = true

/-- R63: the six configuration registers are plain storage: no event but a command changes them. -/
def Obligations.OnlyCommandsChangeConfigRegisters : Prop :=
  ∀ (s t : State) (a : Byte), Memory.wf s.reg = true → (∀ w rest, s.inbox ≠ .cmd w :: rest) →
    step s = .next t → isConfigOffset s.params a = true → t.regAt a = s.regAt a

/-- R33: `now` advances by one at a tick and by one duration at a blocking pulse in the handler, and at nothing
else. -/
def Obligations.TimeAdvancesOnlyByTickAndHandler : Prop :=
  ∀ s t : State, step s = .next t →
    t.now = s.now ∨
    (t.now = s.now + 1 ∧ ∃ rest, s.inbox = .tick :: rest) ∨
    (t.now = s.now + s.params.durationMs ∧ s.params.pulseImpl = .blocking ∧ s.attached = true ∧
      ∃ rest, s.inbox = .intRise :: rest)

/-- R30, R201: after a shutdown nothing but `Reset` changes anything of the block but `now`: the pins stay dark, the
handler detached, `RESP` as it is. -/
def Obligations.HaltedUntilReset : Prop :=
  ∀ s t : State, s.Inv → s.halted = true → (∀ rest, s.inbox ≠ .reset :: rest) → step s = .next t →
    t = { s with inbox := s.inbox.tail, now := t.now, reg := t.reg, busPlan := t.busPlan } ∧
      t.PinsAt .inactive ∧ t.attached = false ∧ t.hold = .none

/-- Every step from a state that meets the invariant gives a state that meets it: pins and flag agree, no indicator
is left lit past its deadline, no hold is kept that should be lifted, an attached handler means interrupt strategy
and not halted, `RESP` and the register space keep their form. -/
def Obligations.StepKeepsInvariant : Prop :=
  ∀ s t : State, s.Inv → step s = .next t → t.Inv

/-- The invariant holds right after reset, for every admissible deployment, power-on time and register contents; and
in `State.reset`, whose deployment, time and contents are the model's choices (log entries 2 and 3). -/
def Obligations.InvariantAtPowerOn : Prop :=
  (∀ (p : Params) (now : Nat) (m : Memory), p.admissible = true → Memory.wf m = true → (State.powerOn p now m).Inv) ∧
  State.reset.Inv

/-- R196: the values the specification gives for reset, in the state right after reset of any deployment. -/
def Obligations.ResetStateValues : Prop :=
  ∀ (p : Params) (now : Nat) (m : Memory),
    let s := State.powerOn p now m
    s.resp = 0#64 ∧ s.fsCache = p.fsReset ∧ s.lastX.toInt = 0 ∧ s.active = false ∧ s.deadline = 0 ∧
    s.irqFlag = false ∧ s.attached = false ∧ s.busFault = false ∧ s.halted = false ∧ s.hold = .none ∧
    s.pinOnboard = List.replicate p.nOnboard .high ∧ s.pinExt = .low ∧ s.now = now ∧ s.reg = m
end

