-- ==== Sys2Proof/Laws/State.lean ====
section
/-! SUPPORT. For every named update of the state, what each field is after it: one lemma per field, true by
unfolding, so that no later proof unfolds a record update. -/

namespace Sys2Proof.Machine

variable (s : State)

/-! ### respond -/

@[simp] theorem respond_params (st : Status) (d : RespData) : (respond st d s).params = s.params := rfl
@[simp] theorem respond_resp (st : Status) (d : RespData) : (respond st d s).resp = respWord st d := rfl
@[simp] theorem respond_fsCache (st : Status) (d : RespData) : (respond st d s).fsCache = s.fsCache := rfl
@[simp] theorem respond_lastX (st : Status) (d : RespData) : (respond st d s).lastX = s.lastX := rfl
@[simp] theorem respond_active (st : Status) (d : RespData) : (respond st d s).active = s.active := rfl
@[simp] theorem respond_deadline (st : Status) (d : RespData) : (respond st d s).deadline = s.deadline := rfl
@[simp] theorem respond_irqFlag (st : Status) (d : RespData) : (respond st d s).irqFlag = s.irqFlag := rfl
@[simp] theorem respond_attached (st : Status) (d : RespData) : (respond st d s).attached = s.attached := rfl
@[simp] theorem respond_busFault (st : Status) (d : RespData) : (respond st d s).busFault = s.busFault := rfl
@[simp] theorem respond_halted (st : Status) (d : RespData) : (respond st d s).halted = s.halted := rfl
@[simp] theorem respond_hold (st : Status) (d : RespData) : (respond st d s).hold = s.hold := rfl
@[simp] theorem respond_now (st : Status) (d : RespData) : (respond st d s).now = s.now := rfl
@[simp] theorem respond_pinOnboard (st : Status) (d : RespData) : (respond st d s).pinOnboard = s.pinOnboard := rfl
@[simp] theorem respond_pinExt (st : Status) (d : RespData) : (respond st d s).pinExt = s.pinExt := rfl
@[simp] theorem respond_reg (st : Status) (d : RespData) : (respond st d s).reg = s.reg := rfl
@[simp] theorem respond_inbox (st : Status) (d : RespData) : (respond st d s).inbox = s.inbox := rfl
@[simp] theorem respond_busPlan (st : Status) (d : RespData) : (respond st d s).busPlan = s.busPlan := rfl
@[simp] theorem respond_freeCount (st : Status) (d : RespData) : (respond st d s).freeCount = s.freeCount := rfl
@[simp] theorem respond_trace (st : Status) (d : RespData) : (respond st d s).trace = s.trace := rfl

/-! ### afterBus -/

@[simp] theorem afterBus_params (o : Obs) : (s.afterBus o).params = s.params := rfl
@[simp] theorem afterBus_resp (o : Obs) : (s.afterBus o).resp = s.resp := rfl
@[simp] theorem afterBus_fsCache (o : Obs) : (s.afterBus o).fsCache = s.fsCache := rfl
@[simp] theorem afterBus_lastX (o : Obs) : (s.afterBus o).lastX = s.lastX := rfl
@[simp] theorem afterBus_active (o : Obs) : (s.afterBus o).active = s.active := rfl
@[simp] theorem afterBus_deadline (o : Obs) : (s.afterBus o).deadline = s.deadline := rfl
@[simp] theorem afterBus_irqFlag (o : Obs) : (s.afterBus o).irqFlag = s.irqFlag := rfl
@[simp] theorem afterBus_attached (o : Obs) : (s.afterBus o).attached = s.attached := rfl
@[simp] theorem afterBus_busFault (o : Obs) : (s.afterBus o).busFault = s.busFault := rfl
@[simp] theorem afterBus_halted (o : Obs) : (s.afterBus o).halted = s.halted := rfl
@[simp] theorem afterBus_hold (o : Obs) : (s.afterBus o).hold = s.hold := rfl
@[simp] theorem afterBus_now (o : Obs) : (s.afterBus o).now = s.now := rfl
@[simp] theorem afterBus_pinOnboard (o : Obs) : (s.afterBus o).pinOnboard = s.pinOnboard := rfl
@[simp] theorem afterBus_pinExt (o : Obs) : (s.afterBus o).pinExt = s.pinExt := rfl
@[simp] theorem afterBus_reg (o : Obs) : (s.afterBus o).reg = s.reg := rfl
@[simp] theorem afterBus_inbox (o : Obs) : (s.afterBus o).inbox = s.inbox := rfl
@[simp] theorem afterBus_busPlan (o : Obs) : (s.afterBus o).busPlan = s.busPlan.tail := rfl
@[simp] theorem afterBus_freeCount (o : Obs) : (s.afterBus o).freeCount = s.freeCount := rfl
@[simp] theorem afterBus_trace (o : Obs) : (s.afterBus o).trace = o :: s.trace := rfl

/-! ### drawFree -/

@[simp] theorem drawFree_params : (s.drawFree).params = s.params := rfl
@[simp] theorem drawFree_resp : (s.drawFree).resp = s.resp := rfl
@[simp] theorem drawFree_fsCache : (s.drawFree).fsCache = s.fsCache := rfl
@[simp] theorem drawFree_lastX : (s.drawFree).lastX = s.lastX := rfl
@[simp] theorem drawFree_active : (s.drawFree).active = s.active := rfl
@[simp] theorem drawFree_deadline : (s.drawFree).deadline = s.deadline := rfl
@[simp] theorem drawFree_irqFlag : (s.drawFree).irqFlag = s.irqFlag := rfl
@[simp] theorem drawFree_attached : (s.drawFree).attached = s.attached := rfl
@[simp] theorem drawFree_busFault : (s.drawFree).busFault = s.busFault := rfl
@[simp] theorem drawFree_halted : (s.drawFree).halted = s.halted := rfl
@[simp] theorem drawFree_hold : (s.drawFree).hold = s.hold := rfl
@[simp] theorem drawFree_now : (s.drawFree).now = s.now := rfl
@[simp] theorem drawFree_pinOnboard : (s.drawFree).pinOnboard = s.pinOnboard := rfl
@[simp] theorem drawFree_pinExt : (s.drawFree).pinExt = s.pinExt := rfl
@[simp] theorem drawFree_reg : (s.drawFree).reg = s.reg := rfl
@[simp] theorem drawFree_inbox : (s.drawFree).inbox = s.inbox := rfl
@[simp] theorem drawFree_busPlan : (s.drawFree).busPlan = s.busPlan := rfl
@[simp] theorem drawFree_freeCount : (s.drawFree).freeCount = s.freeCount + 1 := rfl
@[simp] theorem drawFree_trace : (s.drawFree).trace = s.trace := rfl

/-! ### setReg -/

@[simp] theorem setReg_params (a v : Byte) : (s.setReg a v).params = s.params := rfl
@[simp] theorem setReg_resp (a v : Byte) : (s.setReg a v).resp = s.resp := rfl
@[simp] theorem setReg_fsCache (a v : Byte) : (s.setReg a v).fsCache = s.fsCache := rfl
@[simp] theorem setReg_lastX (a v : Byte) : (s.setReg a v).lastX = s.lastX := rfl
@[simp] theorem setReg_active (a v : Byte) : (s.setReg a v).active = s.active := rfl
@[simp] theorem setReg_deadline (a v : Byte) : (s.setReg a v).deadline = s.deadline := rfl
@[simp] theorem setReg_irqFlag (a v : Byte) : (s.setReg a v).irqFlag = s.irqFlag := rfl
@[simp] theorem setReg_attached (a v : Byte) : (s.setReg a v).attached = s.attached := rfl
@[simp] theorem setReg_busFault (a v : Byte) : (s.setReg a v).busFault = s.busFault := rfl
@[simp] theorem setReg_halted (a v : Byte) : (s.setReg a v).halted = s.halted := rfl
@[simp] theorem setReg_hold (a v : Byte) : (s.setReg a v).hold = s.hold := rfl
@[simp] theorem setReg_now (a v : Byte) : (s.setReg a v).now = s.now := rfl
@[simp] theorem setReg_pinOnboard (a v : Byte) : (s.setReg a v).pinOnboard = s.pinOnboard := rfl
@[simp] theorem setReg_pinExt (a v : Byte) : (s.setReg a v).pinExt = s.pinExt := rfl
@[simp] theorem setReg_reg (a v : Byte) : (s.setReg a v).reg = Memory.write s.reg a.toNat v := rfl
@[simp] theorem setReg_inbox (a v : Byte) : (s.setReg a v).inbox = s.inbox := rfl
@[simp] theorem setReg_busPlan (a v : Byte) : (s.setReg a v).busPlan = s.busPlan := rfl
@[simp] theorem setReg_freeCount (a v : Byte) : (s.setReg a v).freeCount = s.freeCount := rfl
@[simp] theorem setReg_trace (a v : Byte) : (s.setReg a v).trace = s.trace := rfl

/-! ### clearWake -/

@[simp] theorem clearWake_params : (s.clearWake).params = s.params := rfl
@[simp] theorem clearWake_resp : (s.clearWake).resp = s.resp := rfl
@[simp] theorem clearWake_fsCache : (s.clearWake).fsCache = s.fsCache := rfl
@[simp] theorem clearWake_lastX : (s.clearWake).lastX = s.lastX := rfl
@[simp] theorem clearWake_active : (s.clearWake).active = s.active := rfl
@[simp] theorem clearWake_deadline : (s.clearWake).deadline = s.deadline := rfl
@[simp] theorem clearWake_irqFlag : (s.clearWake).irqFlag = s.irqFlag := rfl
@[simp] theorem clearWake_attached : (s.clearWake).attached = s.attached := rfl
@[simp] theorem clearWake_busFault : (s.clearWake).busFault = s.busFault := rfl
@[simp] theorem clearWake_halted : (s.clearWake).halted = s.halted := rfl
@[simp] theorem clearWake_hold : (s.clearWake).hold = s.hold := rfl
@[simp] theorem clearWake_now : (s.clearWake).now = s.now := rfl
@[simp] theorem clearWake_pinOnboard : (s.clearWake).pinOnboard = s.pinOnboard := rfl
@[simp] theorem clearWake_pinExt : (s.clearWake).pinExt = s.pinExt := rfl
@[simp] theorem clearWake_reg :
    (s.clearWake).reg =
      Memory.write s.reg s.params.aWkSrc.toNat (Memory.read s.reg s.params.aWkSrc.toNat &&& ~~~(wakeMask s.params)) := rfl
@[simp] theorem clearWake_inbox : (s.clearWake).inbox = s.inbox := rfl
@[simp] theorem clearWake_busPlan : (s.clearWake).busPlan = s.busPlan := rfl
@[simp] theorem clearWake_freeCount : (s.clearWake).freeCount = s.freeCount := rfl
@[simp] theorem clearWake_trace : (s.clearWake).trace = s.trace := rfl

/-! ### setOutputs -/

@[simp] theorem setOutputs_params (k : OutputKind) : (setOutputs k s).params = s.params := rfl
@[simp] theorem setOutputs_resp (k : OutputKind) : (setOutputs k s).resp = s.resp := rfl
@[simp] theorem setOutputs_fsCache (k : OutputKind) : (setOutputs k s).fsCache = s.fsCache := rfl
@[simp] theorem setOutputs_lastX (k : OutputKind) : (setOutputs k s).lastX = s.lastX := rfl
@[simp] theorem setOutputs_active (k : OutputKind) : (setOutputs k s).active = s.active := rfl
@[simp] theorem setOutputs_deadline (k : OutputKind) : (setOutputs k s).deadline = s.deadline := rfl
@[simp] theorem setOutputs_irqFlag (k : OutputKind) : (setOutputs k s).irqFlag = s.irqFlag := rfl
@[simp] theorem setOutputs_attached (k : OutputKind) : (setOutputs k s).attached = s.attached := rfl
@[simp] theorem setOutputs_busFault (k : OutputKind) : (setOutputs k s).busFault = s.busFault := rfl
@[simp] theorem setOutputs_halted (k : OutputKind) : (setOutputs k s).halted = s.halted := rfl
@[simp] theorem setOutputs_hold (k : OutputKind) : (setOutputs k s).hold = s.hold := rfl
@[simp] theorem setOutputs_now (k : OutputKind) : (setOutputs k s).now = s.now := rfl
@[simp] theorem setOutputs_pinOnboard (k : OutputKind) :
    (setOutputs k s).pinOnboard =
      List.replicate s.params.nOnboard k.onboardLevel := rfl
@[simp] theorem setOutputs_pinExt (k : OutputKind) : (setOutputs k s).pinExt = k.extLevel := rfl
@[simp] theorem setOutputs_reg (k : OutputKind) : (setOutputs k s).reg = s.reg := rfl
@[simp] theorem setOutputs_inbox (k : OutputKind) : (setOutputs k s).inbox = s.inbox := rfl
@[simp] theorem setOutputs_busPlan (k : OutputKind) : (setOutputs k s).busPlan = s.busPlan := rfl
@[simp] theorem setOutputs_freeCount (k : OutputKind) : (setOutputs k s).freeCount = s.freeCount := rfl
@[simp] theorem setOutputs_trace (k : OutputKind) : (setOutputs k s).trace = .pins s.now k :: s.trace := rfl

/-! ### endPulse -/

@[simp] theorem endPulse_params : (endPulse s).params = s.params := rfl
@[simp] theorem endPulse_resp : (endPulse s).resp = s.resp := rfl
@[simp] theorem endPulse_fsCache : (endPulse s).fsCache = s.fsCache := rfl
@[simp] theorem endPulse_lastX : (endPulse s).lastX = s.lastX := rfl
@[simp] theorem endPulse_active : (endPulse s).active = false := rfl
@[simp] theorem endPulse_deadline : (endPulse s).deadline = s.deadline := rfl
@[simp] theorem endPulse_irqFlag : (endPulse s).irqFlag = s.irqFlag := rfl
@[simp] theorem endPulse_attached : (endPulse s).attached = s.attached := rfl
@[simp] theorem endPulse_busFault : (endPulse s).busFault = s.busFault := rfl
@[simp] theorem endPulse_halted : (endPulse s).halted = s.halted := rfl
@[simp] theorem endPulse_hold : (endPulse s).hold = s.hold := rfl
@[simp] theorem endPulse_now : (endPulse s).now = s.now := rfl
@[simp] theorem endPulse_pinOnboard : (endPulse s).pinOnboard = List.replicate s.params.nOnboard .high := rfl
@[simp] theorem endPulse_pinExt : (endPulse s).pinExt = .low := rfl
@[simp] theorem endPulse_reg : (endPulse s).reg = s.reg := rfl
@[simp] theorem endPulse_inbox : (endPulse s).inbox = s.inbox := rfl
@[simp] theorem endPulse_busPlan : (endPulse s).busPlan = s.busPlan := rfl
@[simp] theorem endPulse_freeCount : (endPulse s).freeCount = s.freeCount := rfl
@[simp] theorem endPulse_trace : (endPulse s).trace = .pins s.now .inactive :: s.trace := rfl

/-! ### startPulse -/

@[simp] theorem startPulse_params : (startPulse s).params = s.params := rfl
@[simp] theorem startPulse_resp : (startPulse s).resp = s.resp := rfl
@[simp] theorem startPulse_fsCache : (startPulse s).fsCache = s.fsCache := rfl
@[simp] theorem startPulse_lastX : (startPulse s).lastX = s.lastX := rfl
@[simp] theorem startPulse_active : (startPulse s).active = true := rfl
@[simp] theorem startPulse_deadline : (startPulse s).deadline = s.now + s.params.durationMs := rfl
@[simp] theorem startPulse_irqFlag : (startPulse s).irqFlag = s.irqFlag := rfl
@[simp] theorem startPulse_attached : (startPulse s).attached = s.attached := rfl
@[simp] theorem startPulse_busFault : (startPulse s).busFault = s.busFault := rfl
@[simp] theorem startPulse_halted : (startPulse s).halted = s.halted := rfl
@[simp] theorem startPulse_hold : (startPulse s).hold = s.hold := rfl
@[simp] theorem startPulse_now : (startPulse s).now = s.now := rfl
@[simp] theorem startPulse_pinOnboard : (startPulse s).pinOnboard = List.replicate s.params.nOnboard .low := rfl
@[simp] theorem startPulse_pinExt : (startPulse s).pinExt = .high := rfl
@[simp] theorem startPulse_reg : (startPulse s).reg = s.reg := rfl
@[simp] theorem startPulse_inbox : (startPulse s).inbox = s.inbox := rfl
@[simp] theorem startPulse_busPlan : (startPulse s).busPlan = s.busPlan := rfl
@[simp] theorem startPulse_freeCount : (startPulse s).freeCount = s.freeCount := rfl
@[simp] theorem startPulse_trace : (startPulse s).trace = .pins s.now .active :: s.trace := rfl

/-! ### raiseBusError -/

@[simp] theorem raiseBusError_params : (raiseBusError s).params = s.params := rfl
@[simp] theorem raiseBusError_resp : (raiseBusError s).resp = respWord .busError 0#48 := rfl
@[simp] theorem raiseBusError_fsCache : (raiseBusError s).fsCache = s.fsCache := rfl
@[simp] theorem raiseBusError_lastX : (raiseBusError s).lastX = s.lastX := rfl
@[simp] theorem raiseBusError_active : (raiseBusError s).active = s.active := rfl
@[simp] theorem raiseBusError_deadline : (raiseBusError s).deadline = s.deadline := rfl
@[simp] theorem raiseBusError_irqFlag : (raiseBusError s).irqFlag = s.irqFlag := rfl
@[simp] theorem raiseBusError_attached : (raiseBusError s).attached = s.attached := rfl
@[simp] theorem raiseBusError_busFault : (raiseBusError s).busFault = true := rfl
@[simp] theorem raiseBusError_halted : (raiseBusError s).halted = s.halted := rfl
@[simp] theorem raiseBusError_hold : (raiseBusError s).hold = s.hold := rfl
@[simp] theorem raiseBusError_now : (raiseBusError s).now = s.now := rfl
@[simp] theorem raiseBusError_pinOnboard : (raiseBusError s).pinOnboard = s.pinOnboard := rfl
@[simp] theorem raiseBusError_pinExt : (raiseBusError s).pinExt = s.pinExt := rfl
@[simp] theorem raiseBusError_reg : (raiseBusError s).reg = s.reg := rfl
@[simp] theorem raiseBusError_inbox : (raiseBusError s).inbox = s.inbox := rfl
@[simp] theorem raiseBusError_busPlan : (raiseBusError s).busPlan = s.busPlan := rfl
@[simp] theorem raiseBusError_freeCount : (raiseBusError s).freeCount = s.freeCount := rfl
@[simp] theorem raiseBusError_trace : (raiseBusError s).trace = s.trace := rfl

/-! ### illegal -/

@[simp] theorem illegal_params : (illegal s).params = s.params := rfl
@[simp] theorem illegal_resp : (illegal s).resp = respWord .illegalCmd 0#48 := rfl
@[simp] theorem illegal_fsCache : (illegal s).fsCache = s.fsCache := rfl
@[simp] theorem illegal_lastX : (illegal s).lastX = s.lastX := rfl
@[simp] theorem illegal_active : (illegal s).active = s.active := rfl
@[simp] theorem illegal_deadline : (illegal s).deadline = s.deadline := rfl
@[simp] theorem illegal_irqFlag : (illegal s).irqFlag = s.irqFlag := rfl
@[simp] theorem illegal_attached : (illegal s).attached = s.attached := rfl
@[simp] theorem illegal_busFault : (illegal s).busFault = s.busFault := rfl
@[simp] theorem illegal_halted : (illegal s).halted = s.halted := rfl
@[simp] theorem illegal_hold : (illegal s).hold = s.hold := rfl
@[simp] theorem illegal_now : (illegal s).now = s.now := rfl
@[simp] theorem illegal_pinOnboard : (illegal s).pinOnboard = s.pinOnboard := rfl
@[simp] theorem illegal_pinExt : (illegal s).pinExt = s.pinExt := rfl
@[simp] theorem illegal_reg : (illegal s).reg = s.reg := rfl
@[simp] theorem illegal_inbox : (illegal s).inbox = s.inbox := rfl
@[simp] theorem illegal_busPlan : (illegal s).busPlan = s.busPlan := rfl
@[simp] theorem illegal_freeCount : (illegal s).freeCount = s.freeCount := rfl
@[simp] theorem illegal_trace : (illegal s).trace = s.trace := rfl

/-! ### badOperand -/

@[simp] theorem badOperand_params : (badOperand s).params = s.params := rfl
@[simp] theorem badOperand_resp : (badOperand s).resp = respWord .badOperand 0#48 := rfl
@[simp] theorem badOperand_fsCache : (badOperand s).fsCache = s.fsCache := rfl
@[simp] theorem badOperand_lastX : (badOperand s).lastX = s.lastX := rfl
@[simp] theorem badOperand_active : (badOperand s).active = s.active := rfl
@[simp] theorem badOperand_deadline : (badOperand s).deadline = s.deadline := rfl
@[simp] theorem badOperand_irqFlag : (badOperand s).irqFlag = s.irqFlag := rfl
@[simp] theorem badOperand_attached : (badOperand s).attached = s.attached := rfl
@[simp] theorem badOperand_busFault : (badOperand s).busFault = s.busFault := rfl
@[simp] theorem badOperand_halted : (badOperand s).halted = s.halted := rfl
@[simp] theorem badOperand_hold : (badOperand s).hold = s.hold := rfl
@[simp] theorem badOperand_now : (badOperand s).now = s.now := rfl
@[simp] theorem badOperand_pinOnboard : (badOperand s).pinOnboard = s.pinOnboard := rfl
@[simp] theorem badOperand_pinExt : (badOperand s).pinExt = s.pinExt := rfl
@[simp] theorem badOperand_reg : (badOperand s).reg = s.reg := rfl
@[simp] theorem badOperand_inbox : (badOperand s).inbox = s.inbox := rfl
@[simp] theorem badOperand_busPlan : (badOperand s).busPlan = s.busPlan := rfl
@[simp] theorem badOperand_freeCount : (badOperand s).freeCount = s.freeCount := rfl
@[simp] theorem badOperand_trace : (badOperand s).trace = s.trace := rfl

/-! ### handlerBusError -/

@[simp] theorem handlerBusError_params : (handlerBusError s).params = s.params := rfl
@[simp] theorem handlerBusError_resp : (handlerBusError s).resp = s.resp := rfl
@[simp] theorem handlerBusError_fsCache : (handlerBusError s).fsCache = s.fsCache := rfl
@[simp] theorem handlerBusError_lastX : (handlerBusError s).lastX = s.lastX := rfl
@[simp] theorem handlerBusError_active : (handlerBusError s).active = s.active := rfl
@[simp] theorem handlerBusError_deadline : (handlerBusError s).deadline = s.deadline := rfl
@[simp] theorem handlerBusError_irqFlag : (handlerBusError s).irqFlag = true := rfl
@[simp] theorem handlerBusError_attached : (handlerBusError s).attached = s.attached := rfl
@[simp] theorem handlerBusError_busFault : (handlerBusError s).busFault = true := rfl
@[simp] theorem handlerBusError_halted : (handlerBusError s).halted = s.halted := rfl
@[simp] theorem handlerBusError_hold : (handlerBusError s).hold = s.hold := rfl
@[simp] theorem handlerBusError_now : (handlerBusError s).now = s.now := rfl
@[simp] theorem handlerBusError_pinOnboard : (handlerBusError s).pinOnboard = s.pinOnboard := rfl
@[simp] theorem handlerBusError_pinExt : (handlerBusError s).pinExt = s.pinExt := rfl
@[simp] theorem handlerBusError_reg : (handlerBusError s).reg = s.reg := rfl
@[simp] theorem handlerBusError_inbox : (handlerBusError s).inbox = s.inbox := rfl
@[simp] theorem handlerBusError_busPlan : (handlerBusError s).busPlan = s.busPlan := rfl
@[simp] theorem handlerBusError_freeCount : (handlerBusError s).freeCount = s.freeCount := rfl
@[simp] theorem handlerBusError_trace : (handlerBusError s).trace = s.trace := rfl

end Sys2Proof.Machine
end

