-- ==== Sys2Proof/Laws/Memory.lean ====
section
/-! SUPPORT. The register space: every operation keeps the canonical form, and a read after a write. -/

namespace Sys2Proof.Machine

theorem Memory.wfFrom_mono {m : Memory} {lo lo' : Nat} (h : Memory.wfFrom lo m = true) (hl : lo' ≤ lo) :
    Memory.wfFrom lo' m = true := by
  cases m with
  | nil => rfl
  | cons c rest =>
    obtain ⟨k, v⟩ := c
    simp only [Memory.wfFrom, Bool.and_eq_true, decide_eq_true_eq] at h ⊢
    exact ⟨⟨⟨by omega, h.1.1.2⟩, h.1.2⟩, h.2⟩

/-- Below the least listed offset nothing is listed. -/
theorem Memory.read_below {m : Memory} {lo a : Nat} (h : Memory.wfFrom lo m = true) (ha : a < lo) :
    Memory.read m a = Memory.unlisted := by
  induction m generalizing lo with
  | nil => rfl
  | cons c rest ih =>
    obtain ⟨k, v⟩ := c
    simp only [Memory.wfFrom, Bool.and_eq_true, decide_eq_true_eq] at h
    have hk : k ≠ a := by omega
    simp only [Memory.read, if_neg hk]
    exact ih h.2 (by omega)

theorem Memory.wfFrom_cons {m : Memory} {lo a : Nat} {v : Byte} (h : Memory.wfFrom (a + 1) m = true)
    (hl : lo ≤ a) (ha : a < 256) : Memory.wfFrom lo (Memory.cons a v m) = true := by
  unfold Memory.cons
  split
  · exact Memory.wfFrom_mono h (by omega)
  · next hv => simp [Memory.wfFrom, hl, ha, hv, h]

/-- A write keeps the canonical form from any offset at or below the one written. -/
theorem Memory.wfFrom_write {m : Memory} {lo a : Nat} {v : Byte} (h : Memory.wfFrom lo m = true)
    (hl : lo ≤ a) (ha : a < 256) : Memory.wfFrom lo (Memory.write m a v) = true := by
  induction m generalizing lo with
  | nil => exact Memory.wfFrom_cons rfl hl ha
  | cons c rest ih =>
    obtain ⟨k, x⟩ := c
    have hc := h
    simp only [Memory.wfFrom, Bool.and_eq_true, decide_eq_true_eq] at h
    unfold Memory.write
    split
    · next hk =>
      refine Memory.wfFrom_cons ?_ hl ha
      simp only [Memory.wfFrom, Bool.and_eq_true, decide_eq_true_eq]
      exact ⟨⟨⟨by omega, h.1.1.2⟩, h.1.2⟩, h.2⟩
    · split
      · next hk => exact Memory.wfFrom_cons (by rw [hk]; exact h.2) hl ha
      · next h1 h2 =>
        simp only [Memory.wfFrom, Bool.and_eq_true, decide_eq_true_eq]
        exact ⟨h.1, ih h.2 (by omega)⟩

/-- Every write keeps the canonical form. -/
theorem Memory.wf_write {m : Memory} (h : Memory.wf m = true) (a v : Byte) :
    Memory.wf (Memory.write m a.toNat v) = true :=
  Memory.wfFrom_write h (Nat.zero_le _) a.isLt

theorem Memory.read_cons {m : Memory} {a b : Nat} {v : Byte} (h : Memory.read m a = Memory.unlisted) :
    Memory.read (Memory.cons a v m) b = if a = b then v else Memory.read m b := by
  unfold Memory.cons
  split
  · next hv =>
    split
    · next hb => rw [← hb, h, hv]
    · rfl
  · rfl

theorem Memory.read_writeFrom {m : Memory} {lo : Nat} (h : Memory.wfFrom lo m = true) (a b : Nat) (v : Byte) :
    Memory.read (Memory.write m a v) b = if a = b then v else Memory.read m b := by
  induction m generalizing lo with
  | nil => exact Memory.read_cons rfl
  | cons c rest ih =>
    obtain ⟨k, x⟩ := c
    have hc := h
    simp only [Memory.wfFrom, Bool.and_eq_true, decide_eq_true_eq] at h
    unfold Memory.write
    split
    · next hk =>
      refine Memory.read_cons ?_
      have hne : k ≠ a := by omega
      simp only [Memory.read, if_neg hne]
      exact Memory.read_below h.2 (by omega)
    · split
      · next hk =>
        subst hk
        rw [Memory.read_cons (Memory.read_below h.2 (Nat.lt_succ_self _))]
        split
        · rfl
        · next hb => simp only [Memory.read, if_neg hb]
      · next h1 h2 =>
        simp only [Memory.read]
        rw [ih h.2]
        split
        · next hb => rw [if_neg (by omega)]
        · rfl

/-- A read after a write gives the byte written at its own offset and leaves every other offset alone. -/
theorem Memory.read_write {m : Memory} (h : Memory.wf m = true) (a b : Nat) (v : Byte) :
    Memory.read (Memory.write m a v) b = if a = b then v else Memory.read m b :=
  Memory.read_writeFrom h a b v

@[simp] theorem Memory.length_readBytes (m : Memory) (a n : Nat) : (Memory.readBytes m a n).length = n := by
  induction n generalizing a with
  | zero => rfl
  | succ n ih => simp [Memory.readBytes, ih]

/-- Byte `i` of a burst is the byte at offset `a + i` (R62). -/
theorem Memory.getD_readBytes (m : Memory) (a n i : Nat) (hi : i < n) :
    (Memory.readBytes m a n).getD i 0#8 = Memory.read m (a + i) := by
  induction n generalizing a i with
  | zero => omega
  | succ n ih =>
    cases i with
    | zero => rfl
    | succ i =>
      have := ih (a + 1) i (by omega)
      simp only [Memory.readBytes, List.getD_cons_succ, this]
      congr 1; omega

end Sys2Proof.Machine
end

