-- ==== Sys2Proof/Laws/Ops.lean ====
section
/-! SUPPORT. For each shared operation, once, everything it can do; the meanings' proofs cite these lemmas and do
not unfold the operations. -/

namespace Sys2Proof.Machine

/-! ### Sequencing -/

@[simp] theorem BusRes.bind_ok {α β : Type} (a : α) (s : State) (k : α → State → BusRes β) :
    (BusRes.ok a s).bind k = k a s := rfl
@[simp] theorem BusRes.bind_err {α β : Type} (s : State) (k : α → State → BusRes β) :
    (BusRes.err s : BusRes α).bind k = .err s := rfl
@[simp] theorem BusRes.bind_stop {α β : Type} (f : Fault) (k : α → State → BusRes β) :
    (BusRes.stop f : BusRes α).bind k = .stop f := rfl
@[simp] theorem BusRes.conclude_ok {α : Type} (a : α) (s : State) (k : α → State → State) :
    (BusRes.ok a s).conclude k = .next (k a s) := rfl
@[simp] theorem BusRes.conclude_err {α : Type} (s : State) (k : α → State → State) :
    (BusRes.err s : BusRes α).conclude k = .next (raiseBusError s) := rfl
@[simp] theorem BusRes.conclude_stop {α : Type} (f : Fault) (k : α → State → State) :
    (BusRes.stop f : BusRes α).conclude k = .fault f := rfl

/-- A command that ends in a next state either concluded or raised a bus error. -/
theorem BusRes.conclude_next {α : Type} {r : BusRes α} {k : α → State → State} {t : State}
    (h : r.conclude k = .next t) :
    (∃ a u, r = .ok a u ∧ t = k a u) ∨ (∃ u, r = .err u ∧ t = raiseBusError u) := by
  cases r with
  | ok a u => exact .inl ⟨a, u, rfl, by simpa [BusRes.conclude] using h.symm⟩
  | err u => exact .inr ⟨u, rfl, by simpa [BusRes.conclude] using h.symm⟩
  | stop f => simp [BusRes.conclude] at h

theorem BusRes.bind_eq_ok {α β : Type} {r : BusRes α} {k : α → State → BusRes β} {b : β} {t : State}
    (h : r.bind k = .ok b t) : ∃ a u, r = .ok a u ∧ k a u = .ok b t := by
  cases r with
  | ok a u => exact ⟨a, u, rfl, h⟩
  | err u => simp [BusRes.bind] at h
  | stop f => simp [BusRes.bind] at h

theorem BusRes.bind_eq_err {α β : Type} {r : BusRes α} {k : α → State → BusRes β} {t : State}
    (h : r.bind k = .err t) : r = .err t ∨ ∃ a u, r = .ok a u ∧ k a u = .err t := by
  cases r with
  | ok a u => exact .inr ⟨a, u, rfl, h⟩
  | err u => exact .inl (by simpa [BusRes.bind] using h)
  | stop f => simp [BusRes.bind] at h

/-! ### The environment's choices -/

theorem State.BusOk.outcome {n : Nat} {s : State} (h : s.BusOk (n + 1)) : s.busOutcome = .ok := by
  unfold State.BusOk at h; unfold State.busOutcome
  cases hp : s.busPlan with
  | nil => rfl
  | cons o rest => rw [hp] at h; exact h o (by simp)

theorem State.BusOk.tail {n : Nat} {s t : State} (h : s.BusOk (n + 1)) (ht : t.busPlan = s.busPlan.tail) :
    t.BusOk n := by
  intro o ho
  rw [ht] at ho
  cases hp : s.busPlan with
  | nil => simp [hp] at ho
  | cons p rest =>
    rw [hp] at ho
    exact h o (by rw [hp, List.take_succ_cons]; exact List.mem_cons_of_mem _ ho)

theorem State.BusOk.mono {n m : Nat} {s : State} (h : s.BusOk n) (hm : m ≤ n) : s.BusOk m := by
  intro o ho
  have := List.take_subset_take_left s.busPlan hm
  exact h o (this ho)

/-- After `k` successful transactions the next ones are the later choices of the environment. -/
theorem State.BusOk.drop {n k : Nat} {s t : State} (h : s.BusOk (k + n)) (ht : t.busPlan = s.busPlan.drop k) :
    t.BusOk n := by
  intro o ho
  rw [ht, List.take_drop] at ho
  exact h o (List.mem_of_mem_drop ho)

theorem State.BusFailsAfter.drop {n k : Nat} {rest : List BusOutcome} {s t : State}
    (h : s.BusFailsAfter (k + n) rest) (ht : t.busPlan = s.busPlan.drop k) : t.BusFailsAfter n rest := by
  unfold State.BusFailsAfter at *
  rw [ht, h, List.replicate_add, List.append_assoc, List.drop_append_of_le_length (by simp)]
  simp

theorem State.BusFailsAfter.busOk {n m : Nat} {rest : List BusOutcome} {s : State}
    (h : s.BusFailsAfter n rest) (hm : m ≤ n) : s.BusOk m := by
  intro o ho
  unfold State.BusFailsAfter at h
  rw [h, List.take_append_of_le_length (by simpa using hm)] at ho
  exact List.eq_of_mem_replicate (List.mem_of_mem_take ho)

theorem State.BusFailsAfter.outcome_zero {rest : List BusOutcome} {s : State} (h : s.BusFailsAfter 0 rest) :
    s.busOutcome = .fail := by
  unfold State.BusFailsAfter at h; simp [State.busOutcome, h]

theorem State.BusFailsAfter.tail_zero {rest : List BusOutcome} {s : State} (h : s.BusFailsAfter 0 rest) :
    s.busPlan.tail = rest := by
  unfold State.BusFailsAfter at h; simp [h]

theorem State.BusFailsAfter.outcome_succ {n : Nat} {rest : List BusOutcome} {s : State}
    (h : s.BusFailsAfter (n + 1) rest) : s.busOutcome = .ok := by
  unfold State.BusFailsAfter at h; simp [State.busOutcome, h, List.replicate_succ]

theorem State.BusFailsAfter.tail_succ {n : Nat} {rest : List BusOutcome} {s t : State}
    (h : s.BusFailsAfter (n + 1) rest) (ht : t.busPlan = s.busPlan.tail) : t.BusFailsAfter n rest := by
  unfold State.BusFailsAfter at *; simp [ht, h, List.replicate_succ]

/-! ### The bus primitives -/

/-- A successful `MemRead` (R66). -/
theorem memRead_of_ok {a : Byte} {n : Nat} {s : State} (hn : a.toNat + n ≤ 256) (h : s.busOutcome = .ok) :
    memRead a n s =
      .ok (Memory.readBytes s.reg a.toNat n)
        (if s.readClears a n then (s.afterBus (.busRead s.params.devAddr a n true)).clearWake
         else s.afterBus (.busRead s.params.devAddr a n true)) := by
  unfold memRead; rw [if_neg (by omega), h]

/-- A failed `MemRead` (R66). -/
theorem memRead_of_fail {a : Byte} {n : Nat} {s : State} (hn : a.toNat + n ≤ 256) (h : s.busOutcome = .fail) :
    memRead a n s =
      .err (if s.readClears a n && Config.freeClear s.freeCount then
          (s.afterBus (.busRead s.params.devAddr a n false)).drawFree.clearWake
        else (s.afterBus (.busRead s.params.devAddr a n false)).drawFree) := by
  unfold memRead; rw [if_neg (by omega), h]

theorem readByte_of_ok {a : Byte} {s : State} (h : s.busOutcome = .ok) :
    readByte a s =
      .ok (s.regAt a)
        (if s.readClears a 1 then (s.afterBus (.busRead s.params.devAddr a 1 true)).clearWake
         else s.afterBus (.busRead s.params.devAddr a 1 true)) := by
  unfold readByte; rw [memRead_of_ok (by have := a.isLt; omega) h]; rfl

theorem readByte_of_fail {a : Byte} {s : State} (h : s.busOutcome = .fail) :
    readByte a s =
      .err (if s.readClears a 1 && Config.freeClear s.freeCount then
          (s.afterBus (.busRead s.params.devAddr a 1 false)).drawFree.clearWake
        else (s.afterBus (.busRead s.params.devAddr a 1 false)).drawFree) := by
  unfold readByte; rw [memRead_of_fail (by have := a.isLt; omega) h]; rfl

/-- A successful `MemWrite` (R67). -/
theorem memWrite_of_ok {a v : Byte} {s : State} (h : s.busOutcome = .ok) :
    memWrite a v s = .ok () ((s.afterBus (.busWrite s.params.devAddr a v true)).setReg a v) := by
  unfold memWrite; rw [h]

/-- A failed `MemWrite` (R67). -/
theorem memWrite_of_fail {a v : Byte} {s : State} (h : s.busOutcome = .fail) :
    memWrite a v s =
      .err ((s.afterBus (.busWrite s.params.devAddr a v false)).drawFree.setReg a (Config.freeByte s.freeCount)) := by
  unfold memWrite; rw [h]

theorem State.busOutcome_cases (s : State) : s.busOutcome = .ok ∨ s.busOutcome = .fail := by
  cases s.busOutcome <;> simp

/-- A read of a register that is not `WK_SRC` clears nothing. -/
theorem State.readClears_of_ne {s : State} {a : Byte} (h : a ≠ s.params.aWkSrc) : s.readClears a 1 = false := by
  unfold State.readClears coversOffset
  have h1 : a.toNat ≠ s.params.aWkSrc.toNat := fun e => h (BitVec.eq_of_toNat_eq e)
  simp only [Bool.and_eq_false_iff, decide_eq_false_iff_not]
  omega

/-- A read of `WK_SRC` clears its flags exactly when the parameter says so. -/
theorem State.readClears_self (s : State) : s.readClears s.params.aWkSrc 1 = s.params.wakeSrcReadClears := by
  simp [State.readClears, coversOffset]

/-! ### What a bus operation may change -/

/-- What any bus operation can do to the state: registers, the environment's choices, the record and the free
values, the registers staying in canonical form and the pins unwritten. -/
structure BusFrame (s t : State) : Prop where
  only : t = { s with reg := t.reg, busPlan := t.busPlan, trace := t.trace, freeCount := t.freeCount }
  wf : Memory.wf s.reg = true → Memory.wf t.reg = true
  pins : lastPins t.trace = lastPins s.trace

theorem BusFrame.refl (s : State) : BusFrame s s := ⟨rfl, id, rfl⟩

theorem BusFrame.trans {s t u : State} (h : BusFrame s t) (h' : BusFrame t u) : BusFrame s u where
  only := by rw [h'.only, h.only]
  wf := h'.wf ∘ h.wf
  pins := h'.pins.trans h.pins

/-- The state a bus operation ends in, when it does not stop the machine. -/
def BusRes.Ends {α : Type} (r : BusRes α) (P : State → Prop) : Prop :=
  match r with
  | .ok _ t => P t
  | .err t => P t
  | .stop _ => True

theorem BusRes.Ends.bind {α β : Type} {s : State} {r : BusRes α} {k : α → State → BusRes β}
    (h : r.Ends (BusFrame s)) (hk : ∀ a t, (k a t).Ends (BusFrame t)) : (r.bind k).Ends (BusFrame s) := by
  cases r with
  | ok a t =>
    have h2 := hk a t
    simp only [BusRes.bind_ok]
    revert h2
    cases k a t with
    | ok b u => exact fun h2 => BusFrame.trans h h2
    | err u => exact fun h2 => BusFrame.trans h h2
    | stop f => exact fun _ => trivial
  | err t => exact h
  | stop f => trivial

theorem BusFrame.clearWake (s : State) : BusFrame s s.clearWake := ⟨rfl, fun h => Memory.wf_write h _ _, rfl⟩
theorem BusFrame.drawFree (s : State) : BusFrame s s.drawFree := ⟨rfl, id, rfl⟩
theorem BusFrame.setReg (s : State) (a v : Byte) : BusFrame s (s.setReg a v) :=
  ⟨rfl, fun h => Memory.wf_write h _ _, rfl⟩
theorem BusFrame.afterRead (s : State) (d : BitVec 7) (a : Byte) (n : Nat) (b : Bool) :
    BusFrame s (s.afterBus (.busRead d a n b)) := ⟨rfl, id, rfl⟩
theorem BusFrame.afterWrite (s : State) (d : BitVec 7) (a v : Byte) (b : Bool) :
    BusFrame s (s.afterBus (.busWrite d a v b)) := ⟨rfl, id, rfl⟩

theorem memRead_frame (a : Byte) (n : Nat) (s : State) : (memRead a n s).Ends (BusFrame s) := by
  by_cases hn : a.toNat + n ≤ 256
  · rcases s.busOutcome_cases with h | h
    · rw [memRead_of_ok hn h]
      simp only [BusRes.Ends]
      split
      · exact (BusFrame.afterRead ..).trans (BusFrame.clearWake _)
      · exact BusFrame.afterRead ..
    · rw [memRead_of_fail hn h]
      simp only [BusRes.Ends]
      split
      · exact ((BusFrame.afterRead ..).trans (BusFrame.drawFree _)).trans (BusFrame.clearWake _)
      · exact (BusFrame.afterRead ..).trans (BusFrame.drawFree _)
  · unfold memRead; rw [if_pos (by omega)]; trivial

theorem readByte_frame (a : Byte) (s : State) : (readByte a s).Ends (BusFrame s) :=
  (memRead_frame a 1 s).bind fun _ t => BusFrame.refl t

theorem memWrite_frame (a v : Byte) (s : State) : (memWrite a v s).Ends (BusFrame s) := by
  rcases s.busOutcome_cases with h | h
  · rw [memWrite_of_ok h]; exact (BusFrame.afterWrite ..).trans (BusFrame.setReg ..)
  · rw [memWrite_of_fail h]
    exact ((BusFrame.afterWrite ..).trans (BusFrame.drawFree _)).trans (BusFrame.setReg ..)

theorem rmw_frame (a mask v : Byte) (s : State) : (rmw a mask v s).Ends (BusFrame s) :=
  (readByte_frame a s).bind fun old t => (memWrite_frame a (mergeMask old mask v) t).bind fun _ u => BusFrame.refl u

/-! ### Which bus operations cannot stop the machine -/

/-- The operation answers a value or a failed transaction. -/
def BusRes.Runs {α : Type} (r : BusRes α) : Prop :=
  match r with
  | .ok _ _ => True
  | .err _ => True
  | .stop _ => False

theorem BusRes.Runs.bind {α β : Type} {r : BusRes α} {k : α → State → BusRes β} (h : r.Runs)
    (hk : ∀ a t, (k a t).Runs) : (r.bind k).Runs := by
  cases r with
  | ok a t => exact hk a t
  | err t => trivial
  | stop f => exact h

/-- A command built on such an operation answers a next state. -/
theorem BusRes.Runs.conclude {α : Type} {r : BusRes α} (h : r.Runs) (k : α → State → State) :
    ∃ t, r.conclude k = .next t := by
  cases r with
  | ok a t => exact ⟨_, rfl⟩
  | err t => exact ⟨_, rfl⟩
  | stop f => exact h.elim

theorem memRead_runs {a : Byte} {n : Nat} (hn : a.toNat + n ≤ 256) (s : State) : (memRead a n s).Runs := by
  rcases s.busOutcome_cases with h | h
  · rw [memRead_of_ok hn h]; trivial
  · rw [memRead_of_fail hn h]; trivial

theorem readByte_runs (a : Byte) (s : State) : (readByte a s).Runs :=
  (memRead_runs (by have := a.isLt; omega) s).bind fun _ _ => trivial

theorem memWrite_runs (a v : Byte) (s : State) : (memWrite a v s).Runs := by
  rcases s.busOutcome_cases with h | h
  · rw [memWrite_of_ok h]; trivial
  · rw [memWrite_of_fail h]; trivial

theorem rmw_runs (a mask v : Byte) (s : State) : (rmw a mask v s).Runs :=
  (readByte_runs a s).bind fun _ t => (memWrite_runs _ _ t).bind fun _ _ => trivial

/-! ### The read-modify-write -/

/-- The state after a successful read-modify-write (R68). -/
theorem rmw_of_ok {a mask v : Byte} {s : State} (h : s.BusOk 2) :
    ∃ t, rmw a mask v s = .ok (s.regAt a, mergeMask (s.regAt a) mask v) t ∧ BusFrame s t ∧
      t.busPlan = s.busPlan.drop 2 ∧ t.freeCount = s.freeCount ∧
      t.trace = .busWrite s.params.devAddr a (mergeMask (s.regAt a) mask v) true ::
        .busRead s.params.devAddr a 1 true :: s.trace ∧
      (Memory.wf s.reg = true → t.regAt a = mergeMask (s.regAt a) mask v ∧ RegsUnchangedOutside [a] s t) := by
  have hfr := rmw_frame a mask v s
  have hw : ∀ u : State, u.busPlan = s.busPlan.tail → u.busOutcome = .ok := fun u hu => (h.tail hu).outcome
  unfold rmw at hfr ⊢
  rw [readByte_of_ok h.outcome] at hfr ⊢
  simp only [BusRes.bind_ok] at hfr ⊢
  by_cases hc : s.readClears a 1 = true
  · rw [if_pos hc] at hfr ⊢
    rw [memWrite_of_ok (hw _ (by simp))] at hfr ⊢
    refine ⟨_, rfl, hfr, by simp [← List.drop_one], by simp, by simp, fun hwf => ?_⟩
    have hself : a = s.params.aWkSrc := by
      by_contra hne; rw [State.readClears_of_ne hne] at hc; cases hc
    have hwf2 := Memory.wf_write hwf s.params.aWkSrc (Memory.read s.reg s.params.aWkSrc.toNat &&& ~~~(wakeMask s.params))
    refine ⟨?_, fun b hb => ?_⟩
    · simp [State.regAt, Memory.read_write hwf2]
    · have hab : a.toNat ≠ b.toNat := fun e => hb (by simp [BitVec.eq_of_toNat_eq e])
      rw [← hself] at hwf2
      simp [State.regAt, ← hself, Memory.read_write hwf2, Memory.read_write hwf, hab]
  · rw [if_neg hc] at hfr ⊢
    rw [memWrite_of_ok (hw _ (by simp))] at hfr ⊢
    refine ⟨_, rfl, hfr, by simp [← List.drop_one], by simp, by simp, fun hwf => ⟨?_, fun b hb => ?_⟩⟩
    · simp [State.regAt, Memory.read_write hwf]
    · have hab : a.toNat ≠ b.toNat := fun e => hb (by simp [BitVec.eq_of_toNat_eq e])
      simp [State.regAt, Memory.read_write hwf, hab]

/-! ### The effects of the primitives, as the claims name them -/

/-- The registers after the clearing side effect, offset by offset (R66). -/
theorem regAt_clearWake_of_reads {s t : State} {a : Byte} {n : Nat} (hm : Memory.wf s.reg = true)
    (hr : t.reg = s.reg) (hp : t.params = s.params) (hc : s.readClears a n = true) (b : Byte) :
    t.clearWake.regAt b = s.byteAfterRead a n b.toNat := by
  simp only [State.readClears, coversOffset, Bool.and_eq_true, decide_eq_true_eq] at hc
  simp only [State.regAt, clearWake_reg, hr, hp, Memory.read_write hm, State.byteAfterRead]
  by_cases hb : s.params.aWkSrc.toNat = b.toNat
  · rw [if_pos hb, if_pos ⟨hc.1, hb.symm, by omega, by omega⟩, hb]; rfl
  · rw [if_neg hb, if_neg (fun h => hb h.2.1.symm)]

/-- A read that clears nothing leaves every byte as it was (R66). -/
theorem byteAfterRead_of_no_clear {s : State} {a : Byte} {n b : Nat} (hc : s.readClears a n = false) :
    s.byteAfterRead a n b = Memory.read s.reg b := by
  unfold State.byteAfterRead
  rw [if_neg]
  rintro ⟨h1, h2, h3, h4⟩
  simp [State.readClears, coversOffset, h1] at hc
  omega

/-- Only `WK_SRC` can differ after a read (R66). -/
theorem byteAfterRead_of_ne {s : State} {a b : Byte} {n : Nat} (hb : b ≠ s.params.aWkSrc) :
    s.byteAfterRead a n b.toNat = s.regAt b := by
  unfold State.byteAfterRead State.regAt
  rw [if_neg]
  exact fun h => hb (BitVec.eq_of_toNat_eq h.2.1)

/-- Writing the response on top of one read is still one read. -/
theorem AfterOneRead.respond {a : Byte} {n : Nat} {s t : State} (h : AfterOneRead a n s t) (st : Status)
    (d : RespData) : AfterOneRead a n s (respond st d t) := by
  obtain ⟨h1, h2, h3, h4, h5⟩ := h
  refine ⟨?_, h2, h3, h4, h5⟩
  unfold OnlyBusEffects at *
  rw [h1]; rfl

/-- Writing the response on top of one read-modify-write is still one read-modify-write. -/
theorem AfterOneRmw.respond {a mask v : Byte} {s t : State} (h : AfterOneRmw a mask v s t) (st : Status)
    (d : RespData) : AfterOneRmw a mask v s (respond st d t) := by
  obtain ⟨h1, h2, h3, h4, h5⟩ := h
  refine ⟨?_, h2, h3, h4, h5⟩
  unfold OnlyBusEffects at *
  rw [h1]; rfl

/-- A successful `MemRead`, as one effect (R66). -/
theorem memRead_effect {a : Byte} {n : Nat} {s : State} (hn : a.toNat + n ≤ 256) (hm : Memory.wf s.reg = true)
    (h : s.BusOk 1) :
    ∃ t, memRead a n s = .ok (Memory.readBytes s.reg a.toNat n) t ∧ AfterOneRead a n s t ∧ BusFrame s t := by
  have hf := memRead_frame a n s
  rw [memRead_of_ok hn h.outcome] at hf ⊢
  refine ⟨_, rfl, ?_, hf⟩
  split
  · next hc =>
    exact ⟨rfl, rfl, (List.drop_one ..).symm, rfl,
      regAt_clearWake_of_reads hm (by simp) (by simp) hc⟩
  · next hc =>
    exact ⟨rfl, rfl, (List.drop_one ..).symm, rfl,
      fun b => (byteAfterRead_of_no_clear (s := s) (by simpa using hc)).symm⟩

/-- A failed `MemRead`, as one effect (R66, R167). -/
theorem memRead_failure {a : Byte} {n : Nat} {rest : List BusOutcome} {s : State} (hn : a.toNat + n ≤ 256)
    (hm : Memory.wf s.reg = true) (h : s.BusFailsAfter 0 rest) :
    ∃ t, memRead a n s = .err t ∧ AfterFailedRead a n rest s (raiseBusError t) ∧ BusFrame s t := by
  have hf := memRead_frame a n s
  rw [memRead_of_fail hn h.outcome_zero] at hf ⊢
  refine ⟨_, rfl, ?_, hf⟩
  split
  · next hc =>
    simp only [Bool.and_eq_true] at hc
    exact ⟨rfl, h.tail_zero, rfl, .inr (regAt_clearWake_of_reads hm (by simp) (by simp) hc.1)⟩
  · exact ⟨rfl, h.tail_zero, rfl, .inl fun b => rfl⟩

/-- A successful one-byte read, as one effect. -/
theorem readByte_effect {a : Byte} {s : State} (hm : Memory.wf s.reg = true) (h : s.BusOk 1) :
    ∃ t, readByte a s = .ok (s.regAt a) t ∧ AfterOneRead a 1 s t ∧ BusFrame s t := by
  obtain ⟨t, ht, he, hf⟩ := memRead_effect (a := a) (n := 1) (by have := a.isLt; omega) hm h
  exact ⟨t, by unfold readByte; rw [ht]; rfl, he, hf⟩

/-- A failed one-byte read, as one effect. -/
theorem readByte_failure {a : Byte} {rest : List BusOutcome} {s : State} (hm : Memory.wf s.reg = true)
    (h : s.BusFailsAfter 0 rest) :
    ∃ t, readByte a s = .err t ∧ AfterFailedRead a 1 rest s (raiseBusError t) ∧ BusFrame s t := by
  obtain ⟨t, ht, he, hf⟩ := memRead_failure (a := a) (n := 1) (by have := a.isLt; omega) hm h
  exact ⟨t, by unfold readByte; rw [ht]; rfl, he, hf⟩

/-- A successful read-modify-write, as one effect (R68). -/
theorem rmw_effect {a mask v : Byte} {s : State} (hm : Memory.wf s.reg = true) (h : s.BusOk 2) :
    ∃ t, rmw a mask v s = .ok (s.regAt a, mergeMask (s.regAt a) mask v) t ∧ AfterOneRmw a mask v s t ∧
      BusFrame s t := by
  obtain ⟨t, ht, hf, hp, hc, hr, hreg⟩ := rmw_of_ok (a := a) (mask := mask) (v := v) h
  have honly := hf.only
  refine ⟨t, ht, ⟨?_, hc, hp, hr, (hreg hm).1, (hreg hm).2⟩, hf⟩
  unfold OnlyBusEffects
  rw [honly]

/-- A read-modify-write that fails at its read (`n = 0`) or at its write (`n = 1`), as one effect (R67, R68). -/
theorem rmw_failure {n : Nat} {a mask v : Byte} {rest : List BusOutcome} {s : State} (hn : n < 2)
    (hm : Memory.wf s.reg = true) (h : s.BusFailsAfter n rest) :
    ∃ t, rmw a mask v s = .err t ∧ AfterFailedRmw n a mask v rest s (raiseBusError t) ∧ BusFrame s t := by
  have hfr := rmw_frame a mask v s
  match n, hn, h with
  | 0, _, h =>
    obtain ⟨t, ht, ⟨h1, h2, h3, h4⟩, hf⟩ := readByte_failure (a := a) hm h
    refine ⟨t, by unfold rmw; rw [ht]; rfl, ⟨h1, h2, fun b hb => ?_, fun _ => ⟨h3, h4⟩, by omega⟩, hf⟩
    rcases h4 with h4 | h4
    · exact h4 b
    · rw [h4 b]
      by_cases hw : b = s.params.aWkSrc
      · rw [byteAfterRead_of_no_clear]
        · rfl
        · exact State.readClears_of_ne fun e => hb (by simp [hw, e])
      · exact byteAfterRead_of_ne hw
  | 1, _, h =>
    have hok : s.BusOk 1 := by
      intro o ho
      unfold State.BusFailsAfter at h
      rw [h] at ho
      simpa using ho
    obtain ⟨t, ht, ⟨h1, h2, h3, h4, h5⟩, hf⟩ := readByte_effect (a := a) hm hok
    have htp : t.params = s.params := by rw [hf.only]
    have hfail : t.busOutcome = .fail := (h.tail_succ (t := t) (by rw [h3, List.drop_one])).outcome_zero
    have hwf := hf.wf hm
    unfold rmw at hfr ⊢
    rw [ht] at hfr ⊢
    simp only [BusRes.bind_ok] at hfr ⊢
    rw [memWrite_of_fail hfail] at hfr ⊢
    refine ⟨_, rfl, ⟨?_, ?_, ?_, by omega, fun _ => ?_⟩, hfr⟩
    · unfold OnlyBusErrorEffects; unfold OnlyBusEffects at h1; rw [h1]; rfl
    · simp only [raiseBusError_busPlan, setReg_busPlan, drawFree_busPlan, afterBus_busPlan, h3]
      unfold State.BusFailsAfter at h; simp [h]
    · intro b hb
      have hab : a.toNat ≠ b.toNat := fun e => hb (by simp [BitVec.eq_of_toNat_eq e])
      have h5b := h5 b
      simp only [State.regAt, raiseBusError_reg, setReg_reg, drawFree_reg, afterBus_reg, Memory.read_write hwf,
        if_neg hab] at h5b ⊢
      rw [h5b]
      by_cases hw : b = s.params.aWkSrc
      · rw [byteAfterRead_of_no_clear]
        exact State.readClears_of_ne fun e => hb (by simp [hw, e])
      · exact byteAfterRead_of_ne hw
    · simp [h4, htp, mergeMask]

/-! ### Settle -/

theorem settleClear_of_due {s : State}
    (h : s.params.pulseImpl = .deadline ∧ s.active = true ∧ s.deadline ≤ s.now) : settleClear s = endPulse s := by
  unfold settleClear; rw [if_pos h]

theorem settleClear_of_not_due {s : State}
    (h : ¬(s.params.pulseImpl = .deadline ∧ s.active = true ∧ s.deadline ≤ s.now)) : settleClear s = s := by
  unfold settleClear; rw [if_neg h]

/-- `Settle` lifts holds and ends pulses; it writes nothing else (R142). -/
theorem settle_only (s : State) :
    settle s =
      { s with
        active := (settle s).active, hold := (settle s).hold, pinOnboard := (settle s).pinOnboard,
        pinExt := (settle s).pinExt, trace := (settle s).trace } := by
  unfold settle settleClear settleHold
  split <;> (split <;> first | rfl | (split <;> rfl))

end Sys2Proof.Machine
end

