-- ==== Sys2Proof/Laws/Decode.lean ====
section
/-! SUPPORT. What the decoder can answer, once: the row it finds, and each field of an encoded command. -/

namespace Sys2Proof

/-- No two rows of the opcode map have one opcode (R89). -/
theorem cmdRows_opcodes_nodup : (cmdRows.map CmdRow.opcode).Nodup := by decide

/-- The row the decoder finds is the row with the word's opcode (R90). -/
theorem find_row {r : CmdRow} {w : Word} {rows : List CmdRow} (hn : (rows.map CmdRow.opcode).Nodup)
    (hr : r ∈ rows) (ho : r.opcode = opcodeOf w) : (rows.find? fun q => q.opcode == opcodeOf w) = some r := by
  induction rows with
  | nil => cases hr
  | cons q rest ih =>
    simp only [List.map_cons, List.nodup_cons] at hn
    rcases List.mem_cons.mp hr with rfl | hr'
    · simp [ho]
    · have hne : (q.opcode == opcodeOf w) = false := by
        rw [beq_eq_false_iff_ne]
        intro hq
        exact hn.1 (by rw [hq, ← ho]; exact List.mem_map_of_mem hr')
      rw [List.find?_cons, hne]
      exact ih hn.2 hr'

/-- The decoder on a word with the opcode of a row (R90, R91). -/
theorem decode_of_row {r : CmdRow} {w : Word} (hr : r ∈ cmdRows) (ho : r.opcode = opcodeOf w) :
    decode w = if w &&& r.mbz = 0#32 then .ok (r.build w) else .error .mbzBitSet := by
  unfold decode; rw [find_row cmdRows_opcodes_nodup hr ho]

/-- A word that decodes comes from a row of the map, with no must-be-zero bit set. -/
theorem decode_eq_ok {w : Word} {i : Instr} (h : decode w = .ok i) :
    ∃ r ∈ cmdRows, r.opcode = opcodeOf w ∧ w &&& r.mbz = 0#32 ∧ i = r.build w := by
  unfold decode at h
  split at h
  · cases h
  · next r hf =>
    have ho := List.find?_some hf
    split at h
    · next hz => exact ⟨r, List.mem_of_find?_eq_some hf, by simpa using ho, hz, by cases h; rfl⟩
    · cases h

/-- A word is rejected for its opcode exactly when no row has it (R91(a)). -/
theorem decode_eq_unknown_iff {w : Word} :
    decode w = .error .unknownOpcode ↔ ∀ r ∈ cmdRows, r.opcode ≠ opcodeOf w := by
  unfold decode
  constructor
  · intro h r hr ho
    rw [find_row cmdRows_opcodes_nodup hr ho] at h
    simp only at h
    split at h <;> cases h
  · intro h
    have : (cmdRows.find? fun r => r.opcode == opcodeOf w) = none :=
      List.find?_eq_none.mpr fun r hr => by simpa using h r hr
    rw [this]

/-- The opcode of an encoded command (R85). -/
theorem opcodeOf_encode (i : Instr) : opcodeOf (encode i) = i.opcode := by
  apply BitVec.eq_of_getLsbD_eq
  intro k hk
  simp only [opcodeOf, encode, BitVec.getLsbD_extractLsb', BitVec.getLsbD_append]
  simp [hk]

/-- A field below the opcode is a field of the operand bits (R85). -/
theorem field_encode (i : Instr) {lo n : Nat} (h : lo + n ≤ 24) :
    field (encode i) lo n = i.operands.extractLsb' lo n := by
  apply BitVec.eq_of_getLsbD_eq
  intro k hk
  have : lo + k < 24 := by omega
  simp only [field, encode, BitVec.getLsbD_extractLsb', BitVec.getLsbD_append, hk, this, decide_true, Bool.true_and,
    if_true]

/-- A bit below the opcode is a bit of the operand bits (R85). -/
theorem getLsbD_encode (i : Instr) {k : Nat} (h : k < 24) : (encode i).getLsbD k = i.operands.getLsbD k := by
  simp only [encode, BitVec.getLsbD_append, h, if_true]

/-- The operand index of a range is read back (R88). -/
@[simp] theorem ofIndex_index (g : FsRange) : FsRange.ofIndex g.index = g := by cases g <;> rfl

@[simp] theorem index_ofIndex (b : BitVec 2) : (FsRange.ofIndex b).index = b := by revert b; decide

/-- A mode index in range names its mode, and one out of range names none (R88). -/
theorem modeOfIndex_modeIndex (m : Mode) : Machine.modeOfIndex? (Machine.modeIndex m) = some m := by cases m <;> rfl

theorem modeOfIndex_eq_none {m : BitVec 4} (h : 4 < m.toNat) : Machine.modeOfIndex? m = none := by
  revert h; revert m; decide

end Sys2Proof
end

