-- ==== Sys2Proof/Laws/PerInstr.lean ====
section
/-! SUPPORT. The family `RowOfCommand`: every command has a row of the opcode table with its mnemonic and its opcode
(R89, R90). -/

namespace Sys2Proof.Laws.RowOfCommand

/-- A row of the opcode table has the command's mnemonic, and its pattern has the command's opcode. -/
def Statement (i : Instr) : Prop :=
  ∃ r ∈ opcodeTable, r.mnemonic = i.mnemonic ∧ opcodeOf r.pattern = i.opcode

theorem regrd (addr len : Byte) : Statement (.regrd addr len) :=
  ⟨opcodeTable[0], List.getElem_mem _, rfl, rfl⟩
theorem regwr (addr data : Byte) : Statement (.regwr addr data) :=
  ⟨opcodeTable[1], List.getElem_mem _, rfl, rfl⟩
theorem regrmw (addr mask value : Byte) : Statement (.regrmw addr mask value) :=
  ⟨opcodeTable[2], List.getElem_mem _, rfl, rfl⟩
theorem cfgmode (amode gmode : BitVec 4) : Statement (.cfgmode amode gmode) :=
  ⟨opcodeTable[3], List.getElem_mem _, rfl, rfl⟩
theorem setfs (g : FsRange) : Statement (.setfs g) :=
  ⟨opcodeTable[4], List.getElem_mem _, rfl, rfl⟩
theorem setwkths (thr : BitVec 16) (hp : Bool) (dur : BitVec 2) : Statement (.setwkths thr hp dur) :=
  ⟨opcodeTable[5], List.getElem_mem _, rfl, rfl⟩
theorem wkint (en : Bool) : Statement (.wkint en) :=
  ⟨opcodeTable[6], List.getElem_mem _, rfl, rfl⟩
theorem rdaccel : Statement .rdaccel :=
  ⟨opcodeTable[7], List.getElem_mem _, rfl, rfl⟩
theorem drdyxl : Statement .drdyxl :=
  ⟨opcodeTable[8], List.getElem_mem _, rfl, rfl⟩
theorem drdyg : Statement .drdyg :=
  ⟨opcodeTable[9], List.getElem_mem _, rfl, rfl⟩
theorem wkdet : Statement .wkdet :=
  ⟨opcodeTable[10], List.getElem_mem _, rfl, rfl⟩
theorem wksrc : Statement .wksrc :=
  ⟨opcodeTable[11], List.getElem_mem _, rfl, rfl⟩
theorem pulse : Statement .pulse :=
  ⟨opcodeTable[12], List.getElem_mem _, rfl, rfl⟩
theorem pollstep : Statement .pollstep :=
  ⟨opcodeTable[13], List.getElem_mem _, rfl, rfl⟩
theorem attach : Statement .attach :=
  ⟨opcodeTable[14], List.getElem_mem _, rfl, rfl⟩
theorem detach : Statement .detach :=
  ⟨opcodeTable[15], List.getElem_mem _, rfl, rfl⟩
theorem mainchk : Statement .mainchk :=
  ⟨opcodeTable[16], List.getElem_mem _, rfl, rfl⟩
theorem idle : Statement .idle :=
  ⟨opcodeTable[17], List.getElem_mem _, rfl, rfl⟩
theorem sleep (ms : BitVec 16) : Statement (.sleep ms) :=
  ⟨opcodeTable[18], List.getElem_mem _, rfl, rfl⟩
theorem shutdown : Statement .shutdown :=
  ⟨opcodeTable[19], List.getElem_mem _, rfl, rfl⟩

end Sys2Proof.Laws.RowOfCommand
end

