-- ==== Sys2Proof/Laws/Step.lean ====
section
/-! SUPPORT. What one event does, said once per event: the step of an admissible deployment, the command port, the
interrupt; and that every command of an admissible deployment answers a next state. -/

namespace Sys2Proof.Machine

/-- A step of an admissible deployment performs the first event of the inbox. -/
theorem step_of_inbox {s : State} {e : Event} {rest : List Event} (hp : s.params.admissible = true)
    (hi : s.inbox = e :: rest) : step s = perform e { s with inbox := rest } := by
  unfold step; rw [hi]; exact if_pos hp

theorem step_of_empty {s : State} (hi : s.inbox = []) : step s = .next s := by
  unfold step; rw [hi]

/-- What a step that answers a next state did. -/
theorem step_next {s t : State} (h : step s = .next t) :
    (s.inbox = [] ∧ t = s) ∨
    ∃ e rest, s.inbox = e :: rest ∧ s.params.admissible = true ∧ perform e { s with inbox := rest } = .next t := by
  unfold step at h
  split at h
  · next hi => exact .inl ⟨hi, by simpa using h.symm⟩
  · next e rest hi =>
    unfold performAdmissible at h
    split at h
    · next hp => exact .inr ⟨e, rest, hi, hp, h⟩
    · cases h

/-- The command port (R101): a word that is not accepted changes nothing. -/
theorem presentCommand_of_stalled {w : Word} {s : State} (h : s.accepts w = false) :
    presentCommand w s = .next s := by
  unfold presentCommand; rw [if_neg (by simp [h])]

/-- The command port (R100): an accepted word that decodes runs its instruction, then `Settle`. -/
theorem presentCommand_of_ok {w : Word} {s : State} {i : Instr} (h : s.accepts w = true) (hd : decode w = .ok i) :
    presentCommand w s = settleResult (exec i s) := by
  unfold presentCommand; rw [if_pos h, hd]

/-- The command port (R168): an accepted illegal word answers ILLEGAL_CMD. -/
theorem presentCommand_of_error {w : Word} {s : State} {e : DecodeReject} (h : s.accepts w = true)
    (hd : decode w = .error e) : presentCommand w s = .next (settle (illegal s)) := by
  unfold presentCommand; rw [if_pos h, hd]

/-- What a command word that ends in a next state did. -/
theorem presentCommand_next {w : Word} {s t : State} (h : presentCommand w s = .next t) :
    (s.accepts w = false ∧ t = s) ∨
    (s.accepts w = true ∧ ∃ e, decode w = .error e ∧ t = settle (illegal s)) ∨
    (s.accepts w = true ∧ ∃ i u, decode w = .ok i ∧ exec i s = .next u ∧ t = settle u) := by
  by_cases ha : s.accepts w = true
  · cases hd : decode w with
    | error e =>
      rw [presentCommand_of_error ha hd] at h
      exact .inr (.inl ⟨ha, e, rfl, by simpa using h.symm⟩)
    | ok i =>
      rw [presentCommand_of_ok ha hd] at h
      cases hx : exec i s with
      | next u => rw [hx] at h; exact .inr (.inr ⟨ha, i, u, rfl, hx, by simpa [settleResult] using h.symm⟩)
      | fault f => rw [hx] at h; cases h
      | refused r => rw [hx] at h; cases h
  · have ha : s.accepts w = false := by simpa using ha
    rw [presentCommand_of_stalled ha] at h
    exact .inl ⟨ha, by simpa using h.symm⟩

/-- The edge of a routed line with a handler attached (R174). -/
theorem intRise_of_attached {s : State} (hr : s.routed = true) (ha : s.attached = true) :
    intRise s = takeInterrupt s := by
  unfold intRise; rw [if_pos hr, if_pos ha]

/-- The edge of a routed line with no handler attached (R174). -/
theorem intRise_of_detached {s : State} (hr : s.routed = true) (ha : s.attached = false) :
    intRise s = .next s := by
  unfold intRise; rw [if_pos hr, if_neg (by simp [ha])]

/-- The edge of an un-routed line (R41). -/
theorem intRise_of_unrouted {s : State} (hr : s.routed = false) : intRise s = .refused .inadmissibleIntRise := by
  unfold intRise; rw [if_neg (by simp [hr])]

/-- The handler, when its read succeeds (R176). -/
theorem takeInterrupt_of_ok {s t : State} {v : Byte} (h : readByte s.params.aWkSrc s = .ok v t) :
    takeInterrupt s = .next (settle (handlerBody v t)) := by
  unfold takeInterrupt; rw [h]; rfl

/-- The handler, when its read fails (R178). -/
theorem takeInterrupt_of_err {s t : State} (h : readByte s.params.aWkSrc s = .err t) :
    takeInterrupt s = .next (settle (handlerBusError t)) := by
  unfold takeInterrupt; rw [h]; rfl

/-- The burst of RDACCEL and POLLSTEP fits an admissible deployment (R10(a)). -/
theorem burst_fits {p : Params} (hp : p.admissible = true) : p.aOutXl.toNat + 6 ≤ 256 := by
  simp only [Params.admissible, Params.offsetsOk, Bool.and_eq_true, decide_eq_true_eq] at hp
  have := hp.1.1.1.1.1.1.1
  omega

end Sys2Proof.Machine
end

