-- ==== Sys2Proof/Tests/Slice0.lean ====
section
/-! SUPPORT. The model's own tests. Every expected value is the specification's: the examples of the instruction
rules, and spec/95_test_vectors.md (cited by its vector names). After them, one witness for the hypotheses of each
statement. -/

namespace Sys2Proof.Machine

/-! ### Helpers -/

/-- A property of the state an answer goes on with. -/
def after {α : Type} (r : Result) (f : State → α) : Option α :=
  match r with
  | .next s => some (f s)
  | .fault _ => none
  | .refused _ => none

/-- The state with the bytes stored at the offsets. -/
def put (cells : List (Byte × Byte)) (s : State) : State := cells.foldl (fun t c => t.setReg c.1 c.2) s

/-- The state after the word was presented. -/
def runs (w : Nat) (s : State) : Result := step (s.withFetchWord 32 w)

/-- A polling deployment right after reset. -/
def polled : State := State.powerOn { Params.default with strategy := .polling } 0 []

/-- A deployment with blocking pulses right after reset. -/
def blocked : State := State.powerOn { Params.default with pulseImpl := .blocking } 0 []

/-- A deployment whose wake flags are cleared by reads, right after reset. -/
def clearing : State := State.powerOn { Params.default with wakeSrcReadClears := true } 0 []

/-- Attached and routed, `now = 700`, an edge arriving next (V-IRQ-3). -/
def edged (wake : Byte) : State :=
  put [(0x5E#8, 0x20#8), (0x1B#8, wake)] { State.reset with attached := true, now := 700, inbox := [.intRise] }

/-- The word is rejected with that reason. -/
def rejectedWith (e : DecodeReject) (w : Word) : Bool :=
  match decode w with
  | .error r => r == e
  | .ok _ => false

/-! ### Well-formed commands (R93) -/

theorem test_wf_regrd_in_range : (Instr.regrd 0xFF#8 1#8).wf = true := by decide
theorem test_wf_regrd_length_0 : (Instr.regrd 0x28#8 0#8).wf = false := by decide
theorem test_wf_regrd_length_7 : (Instr.regrd 0x28#8 7#8).wf = false := by decide
theorem test_wf_regrd_past_255 : (Instr.regrd 0xFE#8 3#8).wf = false := by decide
theorem test_wf_cfgmode_amode_5 : (Instr.cfgmode 5#4 0#4).wf = false := by decide
theorem test_wf_cfgmode_gmode_15 : (Instr.cfgmode 2#4 15#4).wf = false := by decide

/-! ### Decoding: the words of rules R110 to R159 and of spec/95 -/

theorem test_decode_regrd : decode 0x01280600#32 = .ok (.regrd 0x28#8 6#8) := by decide
theorem test_decode_regwr : decode 0x02104000#32 = .ok (.regwr 0x10#8 0x40#8) := by decide
theorem test_decode_regrmw : decode 0x03100C04#32 = .ok (.regrmw 0x10#8 0x0C#8 0x04#8) := by decide
theorem test_decode_cfgmode : decode 0x10000103#32 = .ok (.cfgmode 1#4 3#4) := by decide
theorem test_decode_setfs : decode 0x11000002#32 = .ok (.setfs .g8) := by decide
theorem test_decode_setwkths : decode 0x1203E806#32 = .ok (.setwkths 1000#16 true 2#2) := by decide
theorem test_decode_wkint : decode 0x13000001#32 = .ok (.wkint true) := by decide
theorem test_decode_rdaccel : decode 0x20000000#32 = .ok .rdaccel := by decide
theorem test_decode_drdyxl : decode 0x21000000#32 = .ok .drdyxl := by decide
theorem test_decode_drdyg : decode 0x22000000#32 = .ok .drdyg := by decide
theorem test_decode_wkdet : decode 0x23000000#32 = .ok .wkdet := by decide
theorem test_decode_wksrc : decode 0x24000000#32 = .ok .wksrc := by decide
theorem test_decode_pulse : decode 0x30000000#32 = .ok .pulse := by decide
theorem test_decode_pollstep : decode 0x31000000#32 = .ok .pollstep := by decide
theorem test_decode_attach : decode 0x32000000#32 = .ok .attach := by decide
theorem test_decode_detach : decode 0x33000000#32 = .ok .detach := by decide
theorem test_decode_mainchk : decode 0x34000000#32 = .ok .mainchk := by decide
theorem test_decode_idle : decode 0x35000000#32 = .ok .idle := by decide
theorem test_decode_sleep : decode 0x3600FFFF#32 = .ok (.sleep 65535#16) := by decide
theorem test_decode_shutdown : decode 0x3F000000#32 = .ok .shutdown := by decide

/-- V-ERR-1. -/
theorem test_decode_unassigned_opcodes :
    [0x00000000#32, 0xFFFFFFFF#32, 0x04000000#32, 0x14000000#32, 0x25000000#32, 0x37000000#32, 0x3E000000#32,
      0x40000000#32].all (rejectedWith .unknownOpcode) = true := by decide

/-- V-RAW-1, V-RAW-2, V-CFG-1 to V-CFG-5, V-RD-3, V-ERR-1, V-SLP-1, V-IRQ-8. -/
theorem test_decode_must_be_zero_bits :
    [0x01280601#32, 0x02104001#32, 0x10001200#32, 0x10000210#32, 0x11000004#32, 0x1201F40D#32, 0x13000002#32,
      0x20000001#32, 0x21000100#32, 0x24800000#32, 0x30000001#32, 0x32010000#32, 0x36010000#32, 0x3F000001#32].all
      (rejectedWith .mbzBitSet) = true := by decide

theorem test_table_word : decodeTableWord 32 0x03100C04 = some (.regrmw 0x10#8 0x0C#8 0x04#8) := by decide

/-! ### Arithmetic: V-CFG-3 -/

theorem test_threshold_2g :
    (thsValue .halfEven 46 .g2, thsValue .halfEven 47 .g2, thsValue .halfEven 1953 .g2, thsValue .halfEven 65535 .g2)
      = (1, 2, 62, 63) := by decide
theorem test_threshold_ties :
    (thsValue .halfEven 625 .g16, thsValue .halfUp 625 .g16, thsValue .halfEven 875 .g16, thsValue .halfUp 15625 .g16)
      = (2, 3, 4, 63) := by decide
theorem test_threshold_response : thsData (thsValue .halfUp 1125 .g16) .g16 = 0x271005#48 := by decide

/-! ### Raw access: V-RAW-1 to V-RAW-3 -/

theorem test_regrd :
    after (runs 0x01280600 (put [(0x28#8, 0x10#8), (0x29#8, 0x27#8), (0x2A#8, 0xF0#8), (0x2B#8, 0xD8#8),
      (0x2D#8, 0x80#8)] State.reset)) (·.resp) = some 0x00008000D8F02710#64 := by decide
theorem test_regrd_burst_clears_wake_flags :
    after (runs 0x011A0300 (put [(0x1A#8, 0x11#8), (0x1B#8, 0x2F#8), (0x1C#8, 0x22#8)] clearing))
      (fun s => (s.resp, s.regAt 0x1B#8)) = some (0x0000000000222F11#64, 0x20#8) := by decide
theorem test_regwr :
    after (runs 0x02104000 (put [(0x10#8, 0x6F#8)] State.reset)) (fun s => (s.resp, s.regAt 0x10#8, s.fsCache)) =
      some (0x40#64, 0x40#8, .g2) := by decide
theorem test_regwr_fails :
    after (runs 0x02104000 { State.reset with busPlan := [.fail] }) (fun s => (s.resp, s.busFault)) =
      some (0x0100000000000000#64, true) := by decide
theorem test_regrmw :
    after (runs 0x035890FF (put [(0x58#8, 0x0E#8)] State.reset)) (fun s => (s.resp, s.regAt 0x58#8)) =
      some (0x0E9E#64, 0x9E#8) := by decide
theorem test_regrmw_read_fails :
    after (runs 0x03100C04 (put [(0x10#8, 0x63#8)] { State.reset with busPlan := [.fail] }))
      (fun s => (s.resp, s.regAt 0x10#8, s.busFault)) = some (0x0100000000000000#64, 0x63#8, true) := by decide

/-! ### Configuration: V-CFG-1, V-CFG-2, V-CFG-4, V-CFG-5 -/

theorem test_cfgmode :
    after (runs 0x10000200 (put [(0x10#8, 0x6F#8), (0x11#8, 0x5C#8)] State.reset))
      (fun s => (s.resp, s.regAt 0x10#8, s.regAt 0x11#8)) = some (0x0C4F#64, 0x4F#8, 0x0C#8) := by decide
theorem test_cfgmode_third_transaction_fails :
    after (runs 0x10000200 (put [(0x10#8, 0x6F#8), (0x11#8, 0x5C#8)] { State.reset with busPlan := [.ok, .ok, .fail] }))
      (fun s => (s.resp, s.regAt 0x10#8, s.regAt 0x11#8)) = some (0x0100000000000000#64, 0x4F#8, 0x5C#8) := by decide
theorem test_setfs :
    after (runs 0x11000003 (put [(0x10#8, 0x63#8)] State.reset)) (fun s => (s.resp, s.regAt 0x10#8, s.fsCache)) =
      some (0x67#64, 0x67#8, .g16) := by decide
theorem test_setfs_write_fails :
    after (runs 0x11000003 { State.reset with busPlan := [.ok, .fail] }) (fun s => (s.resp, s.fsCache)) =
      some (0x0100000000000000#64, .g2) := by decide
theorem test_setwkths :
    after (runs 0x1201F405 (put [(0x5B#8, 0x80#8), (0x5C#8, 0x0F#8), (0x58#8, 0x0E#8)] State.reset))
      (fun s => (s.resp, s.regAt 0x5B#8, s.regAt 0x5C#8, s.regAt 0x58#8)) =
      some (0x0FA010#64, 0x90#8, 0x2F#8, 0x9E#8) := by decide
theorem test_setwkths_uses_the_cache :
    after (runs 0x1203E806 (put [(0x5B#8, 0x40#8), (0x58#8, 0x10#8)] { State.reset with fsCache := .g8 }))
      (fun s => (s.resp, s.regAt 0x5B#8, s.regAt 0x5C#8, s.regAt 0x58#8)) =
      some (0x1F4008#64, 0x48#8, 0x40#8, 0x90#8) := by decide
theorem test_wkint_sets : after (runs 0x13000001 (put [(0x5E#8, 0xDF#8)] State.reset)) (·.regAt 0x5E#8) = some 0xFF#8 := by
  decide
theorem test_wkint_clears : after (runs 0x13000000 (put [(0x5E#8, 0xFF#8)] State.reset)) (·.resp) = some 0xDF#64 := by
  decide

/-! ### Sensor reads: V-RD-1 to V-RD-3 -/

theorem test_rdaccel :
    after (runs 0x20000000 (put [(0x28#8, 0xFF#8), (0x29#8, 0x7F#8), (0x2A#8, 0xFF#8), (0x2B#8, 0xFF#8)] State.reset))
      (fun s => (s.resp, s.lastX)) = some (0x00000000FFFF7FFF#64, 0#16) := by decide
theorem test_rdaccel_fails :
    after (runs 0x20000000 { State.reset with busPlan := [.fail] }) (·.resp) = some 0x0100000000000000#64 := by decide
theorem test_drdyxl : after (runs 0x21000000 (put [(0x1E#8, 0x02#8)] State.reset)) (·.resp) = some 0#64 := by decide
theorem test_drdyg : after (runs 0x22000000 (put [(0x1E#8, 0x02#8)] State.reset)) (·.resp) = some 1#64 := by decide
theorem test_wkdet : after (runs 0x23000000 (put [(0x1B#8, 0x04#8)] State.reset)) (·.resp) = some 0#64 := by decide
theorem test_wkdet_clears :
    after (runs 0x23000000 (put [(0x1B#8, 0xFC#8)] clearing)) (fun s => (s.resp, s.regAt 0x1B#8)) =
      some (1#64, 0xF0#8) := by decide
theorem test_wksrc_x : after (runs 0x24000000 (put [(0x1B#8, 0x0C#8)] State.reset)) (·.resp) = some 0x30C#64 := by decide
theorem test_wksrc_z : after (runs 0x24000000 (put [(0x1B#8, 0x09#8)] State.reset)) (·.resp) = some 0x909#64 := by decide

/-! ### Pulse timer and polling: V-PLS-1, V-PLS-4, V-POLL-1, V-SLP-1 -/

theorem test_pulse_deadline :
    after (runs 0x30000000 { State.reset with now := 1000 })
      (fun s => (s.active, s.deadline, s.hold, s.pinExt, s.pinOnboard)) =
      some (true, 1100, .none, .high, [.low, .low, .low]) := by decide
theorem test_pulse_blocking :
    after (runs 0x30000000 { blocked with now := 1000 }) (fun s => (s.active, s.deadline, s.hold, s.resp)) =
      some (true, 1100, .block 1100, 0#64) := by decide
theorem test_pollstep_strict :
    after (runs 0x31000000 (put [(0x1E#8, 0x01#8), (0x28#8, 0x10#8), (0x29#8, 0x27#8)] polled))
      (fun s => (s.resp, s.lastX, s.active)) = some (0x27100001#64, 10000#16, false) := by decide
theorem test_pollstep_no_wrap :
    after (runs 0x31000000 (put [(0x1E#8, 0x01#8), (0x28#8, 0xFF#8), (0x29#8, 0x7F#8)] { polled with lastX := 0x8000#16 }))
      (fun s => (s.resp, s.lastX, s.active)) = some (0x7FFF0003#64, 0x7FFF#16, true) := by decide
theorem test_sleep : after (runs 0x3600000A { State.reset with now := 500 }) (·.hold) = some (.sleep 510) := by decide
theorem test_sleep_0 : after (runs 0x36000000 { State.reset with now := 500 }) (·.hold) = some .none := by decide
theorem test_tick_ends_pulse :
    after (step { State.reset with active := true, deadline := 1100, now := 1099, inbox := [.tick] })
      (fun s => (s.now, s.active, s.pinExt)) = some (1100, false, .low) := by decide
theorem test_tick_before_deadline :
    after (step { State.reset with active := true, deadline := 1100, now := 1098, inbox := [.tick] })
      (fun s => (s.now, s.active)) = some (1099, true) := by decide

/-! ### Interrupt control and the handler: V-IRQ-1 to V-IRQ-8 -/

theorem test_attach : after (runs 0x32000000 State.reset) (fun s => (s.attached, s.resp)) = some (true, 0#64) := by decide
theorem test_attach_polling : after (runs 0x32000000 polled) (·.resp) = some 0x0200000000000000#64 := by decide
theorem test_detach : after (runs 0x33000000 { State.reset with attached := true }) (·.attached) = some false := by decide
theorem test_mainchk :
    after (runs 0x34000000 (put [(0x1B#8, 0x0C#8)] { State.reset with irqFlag := true }))
      (fun s => (s.resp, s.irqFlag)) = some (3#64, false) := by decide
theorem test_mainchk_read_fails :
    after (runs 0x34000000 { State.reset with irqFlag := true, busPlan := [.fail] })
      (fun s => (s.resp, s.irqFlag, s.busFault)) = some (0x0100000000000000#64, true, true) := by decide
theorem test_idle : after (runs 0x35000000 { State.reset with now := 2000 }) (·.hold) = some (.idle 12000) := by decide
theorem test_idle_with_flag :
    after (runs 0x35000000 { State.reset with now := 2000, irqFlag := true }) (·.hold) = some .none := by decide
theorem test_shutdown_mid_pulse :
    after (runs 0x3F000000 (put [(0x5E#8, 0xFF#8)] (pulseTrigger .main { State.reset with now := 1000 })))
      (fun s => (s.regAt 0x5E#8, s.pinExt, s.active, s.deadline, s.halted)) =
      some (0xDF#8, .low, false, 1100, true) := by decide
theorem test_shutdown_read_fails :
    after (runs 0x3F000000 (put [(0x5E#8, 0x20#8)] { State.reset with attached := true, busPlan := [.fail] }))
      (fun s => (s.resp, s.regAt 0x5E#8, s.busFault, s.attached, s.halted)) =
      some (0x0100000000000000#64, 0x20#8, true, false, true) := by decide
theorem test_handler_x :
    after (step (edged 0x04#8)) (fun s => (s.trace.head?, s.deadline, s.irqFlag, s.now)) =
      some (some (.pins 700 .active), 800, true, 700) := by decide
theorem test_handler_y :
    after (step (edged 0x0A#8)) (fun s => (s.trace.head?, s.active, s.irqFlag)) =
      some (some (.evt ⟨700, false, true, false, 0x0A#8⟩), false, true) := by decide
theorem test_handler_blocking :
    after (step { edged 0x0C#8 with params := { Params.default with pulseImpl := .blocking } })
      (fun s => (s.trace.take 2, s.now, s.active, s.deadline)) =
      some ([.pins 800 .inactive, .pins 700 .active], 800, false, 800) := by decide

/-! ### Acceptance, order of checks, reset: V-ERR-2, V-ERR-3, V-IRQ-8, V-RST-1 -/

theorem test_illegal_before_bad_operand : after (runs 0x10001500 State.reset) (·.resp) = some 0x0200000000000000#64 := by
  decide
theorem test_busy_word_changes_nothing :
    after (step { State.reset with hold := .sleep 510, now := 505, resp := 7#64, inbox := [.cmd 0x30000000#32] })
      (fun s => (s.resp, s.active, s.hold)) = some (7#64, false, .sleep 510) := by decide
/-- R173, D27. -/
theorem test_simultaneous_order :
    simultaneous true true (some 0x34000000#32) = [.tick, .intRise, .cmd 0x34000000#32] := by decide
theorem test_reset :
    after (step { State.reset with
        fsCache := .g16, lastX := 0xFFFB#16, halted := true, busFault := true, now := 777, inbox := [.reset] })
      (fun s => (s.fsCache, s.lastX, s.halted, s.busFault, s.now)) =
      some (.g2, 0#16, false, false, 777) := by decide

/-! ### Listings: R102, R103 -/

theorem test_assemble_setwkths :
    assembleLine "SETWKTHS 1000, 3, 1".toList = some [.cmd 0x1203E806#32] := by decide
theorem test_assemble_bus_fail : assembleLine "@bus fail".toList = some [.busFail] := by decide
theorem test_assemble_rejects_lower_case : assembleLine "pulse".toList = none := by decide

end Sys2Proof.Machine

/-! ### Witnesses: for every statement with hypotheses, a state and operands that meet all of them together, one for
each clause, at the boundary of the clause's range where it has one -/

namespace Sys2Proof.Machine

/-- The `n + 1`-th bus transaction from reset fails. -/
def failing (n : Nat) : State := { State.reset with busPlan := List.replicate n .ok ++ [.fail] }

/-- The same in a polling deployment. -/
def failingPolled (n : Nat) : State := { polled with busPlan := List.replicate n .ok ++ [.fail] }

/-- The events arrive next after reset. -/
def next (es : List Event) : State := { State.reset with inbox := es }

theorem witness_EncodeDecodeRoundTrip : decode 0x3F000000#32 = .ok .shutdown := by decide

theorem witness_DecodeMatchesOpcodeTable :
    ⟨"SLEEP", 0xFFFF0000#32, 0x36000000#32⟩ ∈ opcodeTable ∧
    0x3600FFFF#32 &&& 0xFFFF0000#32 = 0x36000000#32 ∧ 0x36010000#32 &&& 0xFFFF0000#32 ≠ 0x36000000#32 := by decide

/-- With no hold; and SHUTDOWN during a hold (R101). -/
theorem witness_StepRunsDecodedCommand :
    (next [.cmd 0x23000000#32]).params.admissible = true ∧ (next [.cmd 0x23000000#32]).halted = false ∧
    (next [.cmd 0x23000000#32]).hold = .none ∧ decode 0x23000000#32 = .ok .wkdet ∧
    opcodeOf 0x3F000000#32 = 0x3F#8 ∧ decode 0x3F000000#32 = .ok .shutdown := by decide

/-- One word for each reason of R91, SHUTDOWN with a must-be-zero bit among them (accepted during a hold too). -/
theorem witness_StepAnswersIllegalWord :
    (next [.cmd 0#32]).params.admissible = true ∧ (next [.cmd 0#32]).halted = false ∧ (next [.cmd 0#32]).hold = .none ∧
    decode 0#32 = .error .unknownOpcode ∧ opcodeOf 0x3F000001#32 = 0x3F#8 ∧ decode 0x3F000001#32 = .error .mbzBitSet ∧
    State.reset.params.strategy = .interrupt ∧ decode 0x31000000#32 = .ok .pollstep ∧
    polled.params.admissible = true ∧ polled.params.strategy = .polling ∧ decode 0x32000000#32 = .ok .attach ∧
    decode 0x33000000#32 = .ok .detach ∧ decode 0x34000000#32 = .ok .mainchk ∧ decode 0x35000000#32 = .ok .idle := by
  decide

/-- The nearest out-of-range operands: mode index 5, burst lengths 0 and 7, a burst one byte past offset 255. -/
theorem witness_StepAnswersOutOfRangeWord :
    (next [.cmd 0x10000500#32]).params.admissible = true ∧ (next [.cmd 0x10000500#32]).halted = false ∧
    (next [.cmd 0x10000500#32]).hold = .none ∧ decode 0x10000500#32 = .ok (.cfgmode 5#4 0#4) ∧
    decode 0x10000005#32 = .ok (.cfgmode 0#4 5#4) ∧ 4 < (5#4).toNat ∧
    decode 0x01280000#32 = .ok (.regrd 0x28#8 0#8) ∧ decode 0x01280700#32 = .ok (.regrd 0x28#8 7#8) ∧
    decode 0x01FE0300#32 = .ok (.regrd 0xFE#8 3#8) ∧ (0#8).toNat = 0 ∧ 6 < (7#8).toNat ∧
    256 < (0xFE#8).toNat + (3#8).toNat := by decide

theorem witness_StepStallsUnacceptedCommand :
    ({ next [.cmd 0x3F000000#32] with halted := true } : State).params.admissible = true ∧
    ({ next [.cmd 0x3E000000#32] with hold := .sleep 1 } : State).hold ≠ .none ∧ opcodeOf 0x3E000000#32 ≠ 0x3F#8 := by
  decide

theorem witness_StepRunsPlacedWord : State.reset.params.admissible = true ∧ decode 0x20000000#32 = .ok .rdaccel := by
  decide

theorem witness_StepAnswersAdmissibleEvents :
    State.reset.params.admissible = true ∧
    ((put [(0x5E#8, 0x20#8)] State.reset).regAt State.reset.params.aIntRoute).getLsbD
      State.reset.params.bRoute.val = true ∧
    isConfigOffset State.reset.params 0x1B#8 = false := by decide

/-- A volatile offset beside a configuration register's, and that register's. -/
theorem witness_SensorEventsAndTheirGates :
    State.reset.params.admissible = true ∧ isConfigOffset State.reset.params 0x5D#8 = false ∧
    isConfigOffset State.reset.params 0x5E#8 = true ∧ Memory.wf State.reset.reg = true ∧
    ((put [(0x5E#8, 0xDF#8)] State.reset).regAt State.reset.params.aIntRoute).getLsbD
      State.reset.params.bRoute.val = false := by decide

theorem witness_TickAdvancesAndSettles :
    (next [.tick]).params.admissible = true ∧ (next [.tick]).inbox = .tick :: [] := by decide

theorem witness_ResetInstallsResetValues :
    (next [.reset]).params.admissible = true ∧ (next [.reset]).inbox = .reset :: [] := by decide

theorem witness_RmwMergesUnderTheMask :
    Memory.wf State.reset.reg = true ∧ (failing 2).BusOk 2 ∧ (failing 0).BusFailsAfter 0 [] ∧
    (failing 1).BusFailsAfter 1 [] := by decide

theorem witness_RegrdReturnsTheBytes :
    Memory.wf State.reset.reg = true ∧
    (1 ≤ (6#8).toNat ∧ (6#8).toNat ≤ 6 ∧ (0xFA#8).toNat + (6#8).toNat ≤ 256 ∧ (failing 1).BusOk 1) ∧
    (1 ≤ (1#8).toNat ∧ (1#8).toNat ≤ 6 ∧ (0xFF#8).toNat + (1#8).toNat ≤ 256 ∧ (failing 0).BusFailsAfter 0 []) ∧
    (0#8).toNat = 0 ∧ 6 < (7#8).toNat ∧ 256 < (0xFE#8).toNat + (3#8).toNat := by decide

theorem witness_RegwrStoresTheByte :
    Memory.wf State.reset.reg = true ∧ (failing 1).BusOk 1 ∧ (failing 0).BusFailsAfter 0 [] := by decide

theorem witness_RegrmwMultiplexesTheField :
    Memory.wf State.reset.reg = true ∧ (failing 2).BusOk 2 ∧ (failing 0).BusFailsAfter 0 [] ∧
    (failing 1).BusFailsAfter 1 [] := by decide

theorem witness_CfgmodeWritesBothModes :
    State.reset.params.admissible = true ∧ Memory.wf State.reset.reg = true ∧ (failing 4).BusOk 4 ∧
    (failing 0).BusFailsAfter 0 [] ∧ (failing 2).BusFailsAfter 2 [] ∧ (failing 3).BusFailsAfter 3 [] ∧
    4 < (5#4).toNat ∧ 4 < (15#4).toNat := by decide

theorem witness_SetfsMergesTheRange :
    State.reset.params.admissible = true ∧ Memory.wf State.reset.reg = true ∧ (failing 2).BusOk 2 ∧
    (failing 0).BusFailsAfter 0 [] ∧ (failing 1).BusFailsAfter 1 [] := by decide

/-- No tie at ±2g; a request that is no tie at ±16g, and ties with `k` even and odd; both clamping boundaries. -/
theorem witness_ThresholdFunction :
    FsRange.g2 ≠ .g16 ∧ (250 : Nat) % 250 ≠ 125 ∧ (125 : Nat) = 125 * (2 * 0 + 1) ∧ (375 : Nat) = 125 * (2 * 1 + 1) ∧
    8 * 250 ≤ 125 * fsG .g16 ∧ 63 * (125 * fsG .g16) ≤ 8 * 15750 := by decide

theorem witness_EffectiveThresholdBounds :
    125 * fsG .g16 ≤ 8 * 250 ∧ 8 * 15750 ≤ 63 * (125 * fsG .g16) := by decide

/-- Also where the threshold and the duration share an offset (R10(b)). -/
theorem witness_SetwkthsWritesThreeFields :
    State.reset.params.admissible = true ∧ Memory.wf State.reset.reg = true ∧ (failing 6).BusOk 6 ∧
    (failing 0).BusFailsAfter 0 [] ∧ (failing 3).BusFailsAfter 3 [] ∧ (failing 5).BusFailsAfter 5 [] ∧
    State.reset.params.aWkDur ≠ State.reset.params.aWkThs ∧ State.reset.params.aIntCfg ≠ State.reset.params.aWkThs ∧
    State.reset.params.aIntCfg ≠ State.reset.params.aWkDur ∧
    ({ Params.default with aIntCfg := 0x5C#8, bIntEn := 7, bHpSel := 4 } : Params).admissible = true := by decide

theorem witness_WkintRoutesTheInterrupt :
    Memory.wf State.reset.reg = true ∧ (failing 4).BusOk 2 ∧ (failing 4).BusOk 4 ∧ (failing 0).BusFailsAfter 0 [] ∧
    (failing 1).BusFailsAfter 1 [] := by decide

theorem witness_RdaccelReturnsTheSample :
    State.reset.params.admissible = true ∧ Memory.wf State.reset.reg = true ∧ (failing 1).BusOk 1 ∧
    (failing 0).BusFailsAfter 0 [] := by decide

theorem witness_DataReadyTestsOneBit :
    Memory.wf State.reset.reg = true ∧ (failing 1).BusOk 1 ∧ (failing 0).BusFailsAfter 0 [] := by decide

theorem witness_WkdetReportsOverallWake :
    Memory.wf State.reset.reg = true ∧ (failing 1).BusOk 1 ∧ (failing 0).BusFailsAfter 0 [] := by decide

theorem witness_WksrcReportsEverySource :
    Memory.wf State.reset.reg = true ∧ (failing 1).BusOk 1 ∧ (failing 0).BusFailsAfter 0 [] := by decide

/-- Both values of `WAKE_SRC_READ_CLEARS`. -/
theorem witness_SecondWakeReadMayFindNothing :
    Memory.wf clearing.reg = true ∧ clearing.BusOk 2 ∧ clearing.params.wakeSrcReadClears = true ∧
    State.reset.params.wakeSrcReadClears = false ∧
    (after (exec .wkdet clearing) fun t => after (exec .wkdet t) fun u => u.resp) = some (some 0#64) := by decide

theorem witness_PollstepDetectsTheDelta :
    polled.params.admissible = true ∧ Memory.wf polled.reg = true ∧ polled.params.strategy = .polling ∧
    polled.BusOk 1 ∧ (polled.regAt polled.params.aStatus).getLsbD 0 = false ∧ polled.BusOk 2 ∧
    ((put [(0x1E#8, 0x01#8)] polled).regAt polled.params.aStatus).getLsbD 0 = true ∧
    (failingPolled 0).BusFailsAfter 0 [] ∧ (failingPolled 1).BusFailsAfter 1 [] ∧
    State.reset.params.strategy = .interrupt := by decide

theorem witness_AttachAndDetachSetOneFlag :
    State.reset.params.strategy = .interrupt ∧ polled.params.strategy = .polling := by decide

theorem witness_MainchkInspectsAndClearsTheFlag :
    Memory.wf State.reset.reg = true ∧ State.reset.params.strategy = .interrupt ∧ State.reset.irqFlag = false ∧
    ({ failing 1 with irqFlag := true } : State).BusOk 1 ∧
    ({ failing 0 with irqFlag := true } : State).BusFailsAfter 0 [] ∧ polled.params.strategy = .polling := by decide

theorem witness_IdleHoldsUntilTheTimeout :
    State.reset.params.strategy = .interrupt ∧ polled.params.strategy = .polling := by decide

theorem witness_ShutdownCleansUpOnEveryPath :
    Memory.wf State.reset.reg = true ∧ (failing 2).BusOk 2 ∧ (failing 0).BusFailsAfter 0 [] ∧
    (failing 1).BusFailsAfter 1 [] := by decide

theorem witness_HandlerPulsesOnTheXFlag :
    (edged 0x0C#8).params.admissible = true ∧ Memory.wf (edged 0x0C#8).reg = true ∧
    (edged 0x0C#8).inbox = .intRise :: [] ∧ ((edged 0x0C#8).regAt Params.default.aIntRoute).getLsbD 5 = true ∧
    (edged 0x0C#8).attached = true ∧ (edged 0x0C#8).BusOk 1 := by decide

theorem witness_HandlerReportsItsBusFailure :
    (edged 0x0C#8).params.admissible = true ∧ Memory.wf (edged 0x0C#8).reg = true ∧
    (edged 0x0C#8).inbox = .intRise :: [] ∧ ((edged 0x0C#8).regAt Params.default.aIntRoute).getLsbD 5 = true ∧
    (edged 0x0C#8).attached = true ∧ ({ edged 0x0C#8 with busPlan := [.fail] } : State).BusFailsAfter 0 [] := by decide

theorem witness_DetachedEdgeIsForgotten :
    (put [(0x5E#8, 0x20#8)] (next [.intRise])).params.admissible = true ∧
    (put [(0x5E#8, 0x20#8)] (next [.intRise])).inbox = .intRise :: [] ∧
    ((put [(0x5E#8, 0x20#8)] (next [.intRise])).regAt Params.default.aIntRoute).getLsbD 5 = true ∧
    (put [(0x5E#8, 0x20#8)] (next [.intRise])).attached = false := by decide

theorem witness_EveryCommandAnswersANextState : State.reset.params.admissible = true := by decide

theorem witness_CsrUnitNeverWritesTimerState : (after (exec (.setfs .g4) State.reset) (·.fsCache)) = some .g4 := by
  decide

/-- Two states that differ in the pulse timer's state only. -/
theorem witness_CsrUnitNeverReadsTimerState :
    (pulseTrigger .main State.reset).params = State.reset.params ∧
    (pulseTrigger .main State.reset).reg = State.reset.reg ∧
    (pulseTrigger .main State.reset).fsCache = State.reset.fsCache ∧
    (pulseTrigger .main State.reset).busPlan = State.reset.busPlan ∧
    (pulseTrigger .main State.reset).freeCount = State.reset.freeCount ∧
    (after (exec .wksrc State.reset) (·.resp)) = some 0#64 := by decide

/-- Each clause's command does change its state. -/
theorem witness_OnlyTheNamedCommandsWriteEachState :
    (after (exec (.setfs .g16) State.reset) (·.fsCache)) = some .g16 ∧
    (after (exec .pollstep (put [(0x1E#8, 1#8), (0x28#8, 1#8)] polled)) (·.lastX)) = some 1#16 ∧
    (after (exec .pulse { State.reset with now := 1 }) fun t => (t.active, t.deadline)) = some (true, 101) ∧
    (after (exec .mainchk { State.reset with irqFlag := true }) (·.irqFlag)) = some false ∧
    (after (exec .attach State.reset) (·.attached)) = some true ∧
    (after (exec .shutdown State.reset) (·.halted)) = some true ∧
    (after (exec (.sleep 1#16) State.reset) (·.hold)) = some (.sleep 1) := by decide

theorem witness_BusFaultIsSticky :
    ({ next [.cmd 0x21000000#32] with busFault := true } : State).busFault = true ∧
    (after (step { next [.cmd 0x21000000#32] with busFault := true }) (·.resp)) = some 0#64 := by decide

theorem witness_OnlyCommandsChangeConfigRegisters :
    Memory.wf (next [.sensorWrite 0x5D#8 1#8]).reg = true ∧ isConfigOffset Params.default 0x5E#8 = true ∧
    (after (step (next [.sensorWrite 0x5D#8 1#8])) (·.regAt 0x5D#8)) = some 1#8 := by decide

theorem witness_TimeAdvancesOnlyByTickAndHandler :
    (after (step (next [])) (·.now)) = some 0 ∧ (after (step (next [.tick])) (·.now)) = some 1 ∧
    (after (step { edged 0x0C#8 with params := { Params.default with pulseImpl := .blocking } }) (·.now)) = some 800 := by
  decide

/-- A state of a run with the indicator lit, `DURATION_MS` before its deadline, and only ticks to come. -/
def lit (impl : PulseImpl) (k : Nat) : State :=
  { pulseTrigger .main (State.powerOn { Params.default with pulseImpl := impl } 0 []) with
    inbox := List.replicate k .tick }

/-- The invariant does not speak of the events to come. -/
theorem inv_with_inbox {s : State} (h : s.Inv) (l : List Event) : State.Inv { s with inbox := l } :=
  ⟨h.params, h.memory, h.resp, h.pins, h.recorded, h.attached, h.irqFlag, h.halted, h.pulse, h.hold⟩

theorem lit_inv_deadline : (lit .deadline 0).Inv :=
  ⟨by decide, by decide, ⟨.ok, 0#48, by decide, by decide⟩, ⟨by decide, by decide⟩, by decide, by decide,
    by decide, by decide, by unfold State.PulseBounded; decide, trivial⟩

theorem lit_inv_blocking : (lit .blocking 0).Inv :=
  ⟨by decide, by decide, ⟨.ok, 0#48, by decide, by decide⟩, ⟨by decide, by decide⟩, by decide, by decide,
    by decide, by decide, by unfold State.PulseBounded; decide, ⟨rfl, rfl, rfl⟩⟩

theorem lit_inv (impl : PulseImpl) (k : Nat) : (lit impl k).Inv := by
  cases impl
  · exact inv_with_inbox lit_inv_deadline _
  · exact inv_with_inbox lit_inv_blocking _

/-- Both implementations, at the deadline (`k = DURATION_MS`) and before any tick (`k = 0`). -/
theorem witness_PulseEndsExactlyAtTheDeadline :
    ∀ impl, (lit impl 100).Inv ∧ (lit impl 100).active = true ∧ (lit impl 100).now + 100 ≤ (lit impl 100).deadline ∧
      (lit impl 100).inbox = List.replicate 100 .tick ∧ (lit impl 0).inbox = List.replicate 0 .tick := by
  intro impl
  refine ⟨lit_inv impl 100, ?_⟩
  cases impl <;> decide

/-- A state of a run in which the main context waits. -/
def waiting (h : Hold) (k : Nat) : State := { State.reset with hold := h, inbox := List.replicate k .tick }

theorem sleeping_inv (k : Nat) : (waiting (.sleep 3) k).Inv :=
  inv_with_inbox (s := waiting (.sleep 3) 0)
    ⟨by decide, by decide, ⟨.ok, 0#48, by decide, by decide⟩, ⟨by decide, by decide⟩, by decide, by decide,
      by decide, by decide, by unfold State.PulseBounded; decide, by show 0 < 3; decide⟩ _

theorem idling_inv (k : Nat) : (waiting (.idle 3) k).Inv :=
  inv_with_inbox (s := waiting (.idle 3) 0)
    ⟨by decide, by decide, ⟨.ok, 0#48, by decide, by decide⟩, ⟨by decide, by decide⟩, by decide, by decide,
      by decide, by decide, by unfold State.PulseBounded; decide, ⟨by decide, by show 0 < 3; decide, by decide⟩⟩ _

theorem witness_EveryHoldIsLiftedByTicks :
    (waiting (.sleep 3) 3).Inv ∧ (waiting (.idle 3) 2).Inv ∧ (lit .blocking 100).Inv ∧
    (lit .blocking 100).hold = .block 100 ∧ (waiting (.sleep 3) 3).now + 3 ≤ 3 ∧
    (waiting (.sleep 3) 3).inbox = List.replicate 3 .tick :=
  ⟨sleeping_inv 3, idling_inv 2, lit_inv _ _, by decide, by decide, by decide⟩

/-- A halted state of a run, a tick arriving. -/
theorem witness_HaltedUntilReset :
    ({ next [.tick] with halted := true } : State).Inv ∧ ({ next [.tick] with halted := true } : State).halted = true ∧
    (after (step { next [.tick] with halted := true }) (·.now)) = some 1 :=
  ⟨⟨by decide, by decide, ⟨.ok, 0#48, by decide, by decide⟩, ⟨by decide, by decide⟩, by decide, by decide, by decide,
    by decide, by unfold State.PulseBounded; decide, trivial⟩, by decide, by decide⟩

theorem witness_StepKeepsInvariant :
    (lit .deadline 1).Inv ∧ (after (step (lit .deadline 1)) (·.now)) = some 1 := ⟨lit_inv _ _, by decide⟩

theorem witness_InvariantAtPowerOn : Params.default.admissible = true ∧ Memory.wf [] = true := by decide

end Sys2Proof.Machine
end

namespace Sys2Proof.Machine

/-! ### The two guarantees of a masked merge (R68) -/

/-- Outside the mask the merged byte is the old one. -/
theorem mergeMask_and_not_mask (old mask v : Byte) : mergeMask old mask v &&& ~~~mask = old &&& ~~~mask := by
  ext i hi
  simp only [mergeMask, BitVec.getElem_and, BitVec.getElem_or, BitVec.getElem_not]
  cases mask[i] <;> simp

/-- Inside the mask the merged byte is the given value. -/
theorem mergeMask_and_mask (old mask v : Byte) : mergeMask old mask v &&& mask = v &&& mask := by
  ext i hi
  simp only [mergeMask, BitVec.getElem_and, BitVec.getElem_or, BitVec.getElem_not]
  cases mask[i] <;> simp

/-! ### Raising the bus error leaves the sensor registers alone (R167)

The shared failure lemmas describe the state once the error is raised; these carry their register facts back to the
state the bus operation itself ends in. -/

@[simp] theorem raiseBusError_regAt (t : State) (a : Byte) : (raiseBusError t).regAt a = t.regAt a := rfl

theorem regsUnchangedOutside_raiseBusError {as : List Byte} {s t : State} :
    RegsUnchangedOutside as s (raiseBusError t) ↔ RegsUnchangedOutside as s t := by
  simp only [RegsUnchangedOutside, raiseBusError_regAt]

theorem regsAfterFailedRead_raiseBusError {a : Byte} {n : Nat} {s t : State} :
    RegsAfterFailedRead a n s (raiseBusError t) ↔ RegsAfterFailedRead a n s t := by
  simp only [RegsAfterFailedRead, raiseBusError_regAt]

/-- Settles O16: the masked merge on top of the effects of a read-modify-write, one per outcome of its two
transactions. -/
theorem rmwMergesUnderTheMask : Obligations.RmwMergesUnderTheMask := by
  intro a mask v s hm
  refine ⟨fun hok => ?_, fun rest hfail => ?_, fun rest hfail => ?_⟩
  · obtain ⟨t, ht, ⟨-, -, -, htrace, hnew, hrest⟩, -⟩ := rmw_effect (a := a) (mask := mask) (v := v) hm hok
    exact ⟨_, t, ht, mergeMask_and_not_mask .., mergeMask_and_mask .., hnew, hrest, htrace⟩
  · obtain ⟨t, ht, ⟨-, -, -, hread, -⟩, -⟩ :=
      rmw_failure (a := a) (mask := mask) (v := v) (by decide) hm hfail
    obtain ⟨htrace, hregs⟩ := hread rfl
    exact ⟨t, ht, htrace, regsAfterFailedRead_raiseBusError.mp hregs⟩
  · obtain ⟨t, ht, ⟨-, -, hrest, -, hwrite⟩, -⟩ :=
      rmw_failure (a := a) (mask := mask) (v := v) (by decide) hm hfail
    exact ⟨t, ht, hwrite rfl, regsUnchangedOutside_raiseBusError.mp hrest⟩

end Sys2Proof.Machine

namespace Sys2Proof.Machine

/-! ### The threshold function (R123)

Rounding is described once for any quotient: where it ties, what each tie rule answers, and that it stays between the
integers around the quotient. The threshold function adds only which requests tie. -/

/-- `num / den` lies halfway between two integers (R12). -/
def IsTie (num den : Nat) : Prop := 2 * (num % den) = den

theorem roundQuot_of_below_half {num den : Nat} (h : 2 * (num % den) < den) (tie : TieRule) :
    roundQuot tie num den = num / den := if_pos h

theorem roundQuot_of_above_half {num den : Nat} (h : den < 2 * (num % den)) (tie : TieRule) :
    roundQuot tie num den = num / den + 1 := (if_neg h.not_gt).trans (if_pos h)

theorem roundQuot_halfUp_of_isTie {num den : Nat} (h : IsTie num den) :
    roundQuot .halfUp num den = num / den + 1 := (if_neg h.not_lt).trans (if_neg h.not_gt)

theorem roundQuot_halfEven_of_isTie {num den : Nat} (h : IsTie num den) :
    roundQuot .halfEven num den = if num / den % 2 = 0 then num / den else num / den + 1 :=
  (if_neg h.not_lt).trans (if_neg h.not_gt)

/-- The spec's form of a tie: the quotient is `k + 1/2` for a natural `k`. -/
theorem isTie_iff {num den : Nat} (hden : 0 < den) : IsTie num den ↔ ∃ k, 2 * num = den * (2 * k + 1) := by
  have hdiv := Nat.div_add_mod num den
  constructor
  · intro htie
    rw [IsTie] at htie
    exact ⟨num / den, by linarith⟩
  · rintro ⟨k, hk⟩
    have hquot : num / den = k := Nat.div_eq_of_lt_le (by linarith) (by linarith)
    rw [hquot] at hdiv
    rw [IsTie]
    linarith

/-- Away from ties the rule does not matter. -/
theorem roundQuot_eq_of_not_isTie {num den : Nat} (h : ¬ IsTie num den) (tie tie' : TieRule) :
    roundQuot tie num den = roundQuot tie' num den := by
  obtain hlt | hgt := Nat.lt_or_gt_of_ne h
  · rw [roundQuot_of_below_half hlt, roundQuot_of_below_half hlt]
  · rw [roundQuot_of_above_half hgt, roundQuot_of_above_half hgt]

/-- Rounding answers one of the two integers around the quotient. -/
theorem roundQuot_eq_div_or_succ (tie : TieRule) (num den : Nat) :
    roundQuot tie num den = num / den ∨ roundQuot tie num den = num / den + 1 := by
  obtain hlt | htie | hgt := Nat.lt_trichotomy (2 * (num % den)) den
  · exact .inl (roundQuot_of_below_half hlt tie)
  · cases tie with
    | halfUp => exact .inr (roundQuot_halfUp_of_isTie htie)
    | halfEven => rw [roundQuot_halfEven_of_isTie htie]; exact ite_eq_or_eq ..
  · exact .inr (roundQuot_of_above_half hgt tie)

/-- `half_up` is the floor of the quotient plus a half. -/
theorem roundQuot_halfUp {num den : Nat} (hden : 0 < den) :
    roundQuot .halfUp num den = (2 * num + den) / (2 * den) := by
  have hdiv := Nat.div_add_mod num den
  have hmod := Nat.mod_lt num hden
  have hnonneg := Nat.zero_le (num % den)
  symm
  obtain hlt | htie | hgt := Nat.lt_trichotomy (2 * (num % den)) den
  · rw [roundQuot_of_below_half hlt]
    exact Nat.div_eq_of_lt_le (by linarith) (by linarith)
  · rw [roundQuot_halfUp_of_isTie htie]
    exact Nat.div_eq_of_lt_le (by linarith) (by linarith)
  · rw [roundQuot_of_above_half hgt]
    exact Nat.div_eq_of_lt_le (by linarith) (by linarith)

/-- At `k + 1/2`, `half_even` answers the even one of `k` and `k + 1`. -/
theorem roundQuot_halfEven_of_tie {num den k : Nat} (hden : 0 < den) (h : 2 * num = den * (2 * k + 1)) :
    roundQuot .halfEven num den = if k % 2 = 0 then k else k + 1 := by
  have hquot : num / den = k := Nat.div_eq_of_lt_le (by linarith) (by linarith)
  rw [roundQuot_halfEven_of_isTie ((isTie_iff hden).mpr ⟨k, h⟩), hquot]

/-- A quotient of at least `n` rounds to at least `n`. -/
theorem le_roundQuot {num den n : Nat} (hden : 0 < den) (h : n * den ≤ num) (tie : TieRule) :
    n ≤ roundQuot tie num den := by
  have hquot : n ≤ num / den := (Nat.le_div_iff_mul_le hden).mpr h
  obtain hround | hround := roundQuot_eq_div_or_succ tie num den <;> omega

/-- A quotient of at most `n` rounds to at most `n`. -/
theorem roundQuot_le {num den n : Nat} (hden : 0 < den) (h : num ≤ n * den) (tie : TieRule) :
    roundQuot tie num den ≤ n := by
  obtain hlt | rfl := h.lt_or_eq
  · have hquot : num / den < n := (Nat.div_lt_iff_lt_mul hden).mpr hlt
    obtain hround | hround := roundQuot_eq_div_or_succ tie num den <;> omega
  · have hbelow : 2 * (n * den % den) < den := by simpa using hden
    rw [roundQuot_of_below_half hbelow, Nat.mul_div_cancel n hden]

/-- Clamping in the library's terms. -/
theorem clampNat_eq_max_min {v lo hi : Nat} (h : lo ≤ hi) : clampNat v lo hi = max lo (min v hi) := by
  unfold clampNat
  split_ifs <;> omega

theorem le_clampNat {v lo hi : Nat} (h : lo ≤ hi) : lo ≤ clampNat v lo hi :=
  clampNat_eq_max_min h ▸ le_max_left ..

theorem clampNat_le {v lo hi : Nat} (h : lo ≤ hi) : clampNat v lo hi ≤ hi :=
  clampNat_eq_max_min h ▸ max_le h (min_le_right ..)

theorem clampNat_eq_lo {v lo hi : Nat} (h : lo ≤ hi) (hv : v ≤ lo) : clampNat v lo hi = lo := by
  rw [clampNat_eq_max_min h, max_eq_left ((min_le_left ..).trans hv)]

theorem clampNat_eq_hi {v lo hi : Nat} (h : lo ≤ hi) (hv : hi ≤ v) : clampNat v lo hi = hi := by
  rw [clampNat_eq_max_min h, min_eq_right hv, max_eq_right h]

/-- The step `125g` of the threshold field, in eighths of a mg, is positive. -/
theorem thsStep_pos (g : FsRange) : 0 < 125 * fsG g := by cases g <;> decide

/-- Requests tie at ±16g only, and there exactly at the odd multiples of 125 mg: at the other ranges a tie would make
an even number equal an odd one. -/
theorem isTie_threshold_iff {t : Nat} {g : FsRange} :
    IsTie (8 * t) (125 * fsG g) ↔ g = .g16 ∧ ∃ k, t = 125 * (2 * k + 1) := by
  rw [isTie_iff (thsStep_pos g)]
  cases g with
  | g16 => simp only [fsG, true_and]; exact exists_congr fun k => by omega
  | g2 | g4 | g8 => simp only [fsG, reduceCtorEq, false_and, iff_false]; rintro ⟨k, hk⟩; omega

theorem thsValue_eq_of_not_isTie {t : Nat} {g : FsRange} (h : ¬ IsTie (8 * t) (125 * fsG g)) (tie tie' : TieRule) :
    thsValue tie t g = thsValue tie' t g := by
  rw [thsValue, roundQuot_eq_of_not_isTie h tie tie', ← thsValue]

theorem thsValue_halfUp (t : Nat) (g : FsRange) :
    thsValue .halfUp t g = clampNat ((16 * t + 125 * fsG g) / (250 * fsG g)) 1 63 := by
  have hnum : 2 * (8 * t) = 16 * t := by omega
  have hden : 2 * (125 * fsG g) = 250 * fsG g := by omega
  rw [thsValue, roundQuot_halfUp (thsStep_pos g), hnum, hden]

theorem thsValue_halfEven_of_tie (k : Nat) :
    thsValue .halfEven (125 * (2 * k + 1)) .g16 = clampNat (if k % 2 = 0 then k else k + 1) 1 63 := by
  have htie : 2 * (8 * (125 * (2 * k + 1))) = 125 * fsG .g16 * (2 * k + 1) := by simp only [fsG]; omega
  rw [thsValue, roundQuot_halfEven_of_tie (thsStep_pos .g16) htie]

theorem one_le_thsValue (tie : TieRule) (t : Nat) (g : FsRange) : 1 ≤ thsValue tie t g := le_clampNat (by decide)

theorem thsValue_le (tie : TieRule) (t : Nat) (g : FsRange) : thsValue tie t g ≤ 63 := clampNat_le (by decide)

/-- Up to one step the value is the least one. -/
theorem thsValue_eq_one {t : Nat} {g : FsRange} (h : 8 * t ≤ 125 * fsG g) (tie : TieRule) : thsValue tie t g = 1 :=
  clampNat_eq_lo (by decide) (roundQuot_le (thsStep_pos g) (by rwa [one_mul]) tie)

/-- From 63 steps on the value is the greatest one. -/
theorem thsValue_eq_max {t : Nat} {g : FsRange} (h : 63 * (125 * fsG g) ≤ 8 * t) (tie : TieRule) :
    thsValue tie t g = 63 :=
  clampNat_eq_hi (by decide) (le_roundQuot (thsStep_pos g) h tie)

/-- Settles O22: the closed form of rounding half up, the ties of R123 and the two clamping boundaries. -/
theorem thresholdFunction : Obligations.ThresholdFunction := by
  intro t g
  refine ⟨thsValue_halfUp t g, fun hg => ?_, fun hk => ?_, fun k hk => hk ▸ thsValue_halfEven_of_tie k, fun tie =>
    ⟨one_le_thsValue tie t g, thsValue_le tie t g, fun h => thsValue_eq_one h tie, fun h => thsValue_eq_max h tie⟩⟩
  · exact thsValue_eq_of_not_isTie (fun htie => hg (isTie_threshold_iff.mp htie).1) _ _
  · refine thsValue_eq_of_not_isTie (fun htie => ?_) _ _
    obtain ⟨-, k, rfl⟩ := isTie_threshold_iff.mp htie
    exact hk k rfl

end Sys2Proof.Machine

namespace Sys2Proof.Machine

/-- The event `Tick` (R146): one more on the clock, then `Settle`, whatever the hold and the halt flag are. -/
theorem perform_tick (s : State) : perform .tick s = .next (settle { s with now := s.now + 1 }) := rfl

/-- Settles O14: the step performs the tick at the head of the inbox. -/
theorem tickAdvancesAndSettles : Obligations.TickAdvancesAndSettles := by
  intro s rest hp hi
  rw [step_of_inbox hp hi, perform_tick]

end Sys2Proof.Machine

namespace Sys2Proof.Machine

/-! ### Accepted words the block answers without acting on them (R168, R169) -/

theorem illegal_eq (s : State) : illegal s = { s with resp := 0x0200000000000000#64 } := rfl

theorem badOperand_eq (s : State) : badOperand s = { s with resp := 0x0300000000000000#64 } := rfl

/-- What the port accepts (R101), as a proposition. -/
theorem accepts_eq_true_iff {s : State} {w : Word} :
    s.accepts w = true ↔ s.halted = false ∧ (s.hold = .none ∨ opcodeOf w = 0x3F#8) := by
  simp [State.accepts, State.busy]

/-- A command of the other strategy is illegal (R92). -/
theorem requireStrategy_of_ne {st : Strategy} {s : State} (h : s.params.strategy ≠ st) (body : Result) :
    requireStrategy st s body = .next (illegal s) := if_neg h

/-- POLLSTEP under the interrupt strategy, and the four commands of interrupt control under polling (R91(c), R92). -/
theorem exec_illegal_of_strategy {w : Word} {s : State}
    (h : (s.params.strategy = .interrupt ∧ decode w = .ok .pollstep) ∨
      (s.params.strategy = .polling ∧
        (decode w = .ok .attach ∨ decode w = .ok .detach ∨ decode w = .ok .mainchk ∨ decode w = .ok .idle))) :
    ∃ i, decode w = .ok i ∧ exec i s = .next (illegal s) := by
  obtain ⟨hst, hd⟩ | ⟨hst, hd⟩ := h
  · exact ⟨_, hd, requireStrategy_of_ne (by simp [hst]) _⟩
  · have hne : s.params.strategy ≠ .interrupt := by simp [hst]
    obtain hd | hd | hd | hd := hd <;> exact ⟨_, hd, requireStrategy_of_ne hne _⟩

/-- CFGMODE with a mode index above 4 touches no register (R93, R169). -/
theorem execCfgmode_of_out_of_range {amode gmode : BitVec 4} (h : 4 < amode.toNat ∨ 4 < gmode.toNat) (s : State) :
    execCfgmode amode gmode s = .next (badOperand s) := by
  unfold execCfgmode
  obtain h | h := h
  · rw [modeOfIndex_eq_none h]
  · rw [modeOfIndex_eq_none h]
    cases modeOfIndex? amode <;> rfl

theorem regrdInRange_eq_false_iff {addr len : Byte} :
    regrdInRange addr len = false ↔ len.toNat = 0 ∨ 6 < len.toNat ∨ 256 < addr.toNat + len.toNat := by
  simp only [regrdInRange, Bool.and_eq_false_iff, decide_eq_false_iff_not]
  omega

/-- REGRD with an out-of-range burst issues no read (R93, R169). -/
theorem execRegrd_of_out_of_range {addr len : Byte} (h : regrdInRange addr len = false) (s : State) :
    execRegrd addr len s = .next (badOperand s) := if_neg (by simp [h])

/-- The step on an accepted word that decodes is its instruction, then `Settle` (R100). -/
theorem step_of_exec {s t : State} {w : Word} {i : Instr} {rest : List Event} (hp : s.params.admissible = true)
    (hi : s.inbox = .cmd w :: rest) (ha : State.accepts { s with inbox := rest } w = true) (hd : decode w = .ok i)
    (hx : exec i { s with inbox := rest } = .next t) : step s = .next (settle t) := by
  rw [step_of_inbox hp hi, perform, presentCommand_of_ok ha hd, hx, settleResult]

/-- Settles O8: the decoder's rejections go through the command port, the strategy's through the meaning. -/
theorem stepAnswersIllegalWord : Obligations.StepAnswersIllegalWord := by
  intro s w rest hp hi hhalt hhold hbad
  have ha : State.accepts { s with inbox := rest } w = true := accepts_eq_true_iff.mpr ⟨hhalt, hhold⟩
  obtain ⟨e, hd⟩ | hst := hbad
  · rw [step_of_inbox hp hi, perform, presentCommand_of_error ha hd, illegal_eq]
  · obtain ⟨i, hd, hx⟩ := exec_illegal_of_strategy (s := { s with inbox := rest }) hst
    rw [step_of_exec hp hi ha hd hx, illegal_eq]

/-- Settles O9: both commands that have out-of-range operands answer before their first transaction. -/
theorem stepAnswersOutOfRangeWord : Obligations.StepAnswersOutOfRangeWord := by
  intro s w rest hp hi hhalt hhold hbad
  have ha : State.accepts { s with inbox := rest } w = true := accepts_eq_true_iff.mpr ⟨hhalt, .inl hhold⟩
  obtain ⟨amode, gmode, hd, hr⟩ | ⟨addr, len, hd, hr⟩ := hbad
  · rw [step_of_exec hp hi ha hd (execCfgmode_of_out_of_range hr _), badOperand_eq]
  · rw [step_of_exec hp hi ha hd (execRegrd_of_out_of_range (regrdInRange_eq_false_iff.mpr hr) _), badOperand_eq]

end Sys2Proof.Machine

namespace Sys2Proof.Machine

/-! ### The interrupt handler (R174 to R178) -/

/-- The step on a routed edge with a handler attached takes the interrupt (R174). -/
theorem step_intRise_of_attached {s : State} {rest : List Event} (hp : s.params.admissible = true)
    (hi : s.inbox = .intRise :: rest) (hr : (s.regAt s.params.aIntRoute).getLsbD s.params.bRoute.val = true)
    (ha : s.attached = true) : step s = takeInterrupt { s with inbox := rest } := by
  rw [step_of_inbox hp hi]
  exact intRise_of_attached hr ha

/-- Settles O42: a failed read, then the two flags. -/
theorem handlerReportsItsBusFailure : Obligations.HandlerReportsItsBusFailure := by
  intro s rest plan hp hm hi hr ha hfail
  obtain ⟨u, hread, ⟨-, hplan, htrace, hregs⟩, hframe⟩ :=
    readByte_failure (s := { s with inbox := rest }) (a := s.params.aWkSrc) hm hfail
  rw [raiseBusError_busPlan] at hplan
  rw [raiseBusError_trace] at htrace
  have hu : u =
      { s with
        inbox := rest, reg := u.reg, busPlan := plan, freeCount := u.freeCount,
        trace := .busRead s.params.devAddr s.params.aWkSrc 1 false :: s.trace } := by
    rw [hframe.only, hplan, htrace]
  refine ⟨handlerBusError u, ?_, regsAfterFailedRead_raiseBusError.mp hregs, ?_⟩
  · rw [step_intRise_of_attached hp hi hr ha, takeInterrupt_of_err hread]
  · rw [hu]; rfl

/-- A deadline trigger only starts the pulse; `Settle` ends it later (R141). -/
theorem pulseTrigger_of_deadline {s : State} (h : s.params.pulseImpl = .deadline) (ctx : Ctx) :
    pulseTrigger ctx s = startPulse s := by
  unfold pulseTrigger; rw [h]

/-- A blocking trigger of the interrupt context lets the whole duration pass and ends its pulse (R141). -/
theorem pulseTrigger_irq_of_blocking {s : State} (h : s.params.pulseImpl = .blocking) :
    pulseTrigger .irq s = endPulse { startPulse s with now := s.now + s.params.durationMs } := by
  unfold pulseTrigger; rw [h]; rfl

/-- The record the handler emits for the byte it read (R38, R176). -/
def wakeEvent (v : Byte) (s : State) : MotionEvent :=
  ⟨s.now, v.getLsbD s.params.bXWu.val, v.getLsbD s.params.bYWu.val, v.getLsbD s.params.bZWu.val, v⟩

/-- Without the X flag the handler only reports (R176). -/
theorem handlerBody_of_x_clear {v : Byte} {s : State} (hx : v.getLsbD s.params.bXWu.val = false) :
    handlerBody v s = { s with irqFlag := true, trace := .evt (wakeEvent v s) :: s.trace } := by
  simp only [handlerBody, decodeWake, wakeEvent, hx, Bool.false_eq_true, if_false]

/-- With the X flag the handler reports, then triggers (R176). -/
theorem handlerBody_of_x_set {v : Byte} {s : State} (hx : v.getLsbD s.params.bXWu.val = true) :
    handlerBody v s =
      { pulseTrigger .irq { s with trace := .evt (wakeEvent v s) :: s.trace } with irqFlag := true } := by
  simp only [handlerBody, decodeWake, wakeEvent, hx, if_true]

/-- A deadline pulse of the handler is still lit when the handler ends (R141, R176). -/
theorem handlerBody_of_deadline {v : Byte} {s : State} (hx : v.getLsbD s.params.bXWu.val = true)
    (h : s.params.pulseImpl = .deadline) :
    handlerBody v s =
      { s with
        irqFlag := true, active := true, deadline := s.now + s.params.durationMs,
        pinOnboard := List.replicate s.params.nOnboard .low, pinExt := .high,
        trace := .pins s.now .active :: .evt (wakeEvent v s) :: s.trace } := by
  simp only [handlerBody_of_x_set hx, pulseTrigger_of_deadline, h]; rfl

/-- A blocking pulse of the handler is over when the handler ends, its duration later (R141, R176). -/
theorem handlerBody_of_blocking {v : Byte} {s : State} (hx : v.getLsbD s.params.bXWu.val = true)
    (h : s.params.pulseImpl = .blocking) :
    handlerBody v s =
      { s with
        irqFlag := true, active := false, deadline := s.now + s.params.durationMs,
        now := s.now + s.params.durationMs,
        pinOnboard := List.replicate s.params.nOnboard .high, pinExt := .low,
        trace := .pins (s.now + s.params.durationMs) .inactive :: .pins s.now .active ::
          .evt (wakeEvent v s) :: s.trace } := by
  simp only [handlerBody_of_x_set hx, pulseTrigger_irq_of_blocking, h]; rfl

/-- After its read the handler leaves the sensor registers alone (R176). -/
theorem handlerBody_reg (v : Byte) (s : State) : (handlerBody v s).reg = s.reg := by
  cases hx : v.getLsbD s.params.bXWu.val with
  | false => rw [handlerBody_of_x_clear hx]
  | true =>
    cases h : s.params.pulseImpl with
    | deadline => rw [handlerBody_of_deadline hx h]
    | blocking => rw [handlerBody_of_blocking hx h]

/-- Settles O41: one read, then the handler's body: no pulse, a lit one, or a whole blocking one. -/
theorem handlerPulsesOnTheXFlag : Obligations.HandlerPulsesOnTheXFlag := by
  intro s rest hp hm hi hr ha hok p v x blocking seen lit
  obtain ⟨u, hread, ⟨-, hfree, hplan, htrace, hregs⟩, hframe⟩ :=
    readByte_effect (s := { s with inbox := rest }) (a := p.aWkSrc) hm hok
  have hu : u =
      { s with
        inbox := rest, reg := u.reg, busPlan := s.busPlan.drop 1,
        trace := .busRead p.devAddr p.aWkSrc 1 true :: s.trace } := by
    rw [hframe.only, hplan, htrace, hfree]
  have hparams : u.params = p := by rw [hu]
  refine ⟨handlerBody v u, ?_, fun b => ?_, ?_⟩
  · rw [step_intRise_of_attached hp hi hr ha]
    exact takeInterrupt_of_ok hread
  · rw [State.regAt, handlerBody_reg]
    exact hregs b
  · have hux : v.getLsbD u.params.bXWu.val = x := by rw [hparams]
    have hevt : wakeEvent v u = ⟨s.now, x, v.getLsbD p.bYWu.val, v.getLsbD p.bZWu.val, v⟩ := by rw [hu]; rfl
    rw [handlerBody_reg]
    cases hx : x with
    | false =>
      rw [handlerBody_of_x_clear (hux.trans hx), hevt, hu]
      simp [lit, seen, hx, p]
    | true =>
      cases himpl : s.params.pulseImpl with
      | deadline =>
        rw [handlerBody_of_deadline (hux.trans hx) (hparams ▸ himpl), hevt, hu]
        simp [lit, blocking, seen, hx, himpl, p]
      | blocking =>
        rw [handlerBody_of_blocking (hux.trans hx) (hparams ▸ himpl), hevt, hu]
        simp [lit, blocking, seen, hx, himpl, p]

end Sys2Proof.Machine

namespace Sys2Proof.Machine

/-! ### Reset (R196, R197) -/

/-- Driving every pin inactive (R140): the onboard pins are inverted, the external one is not (R35); the write is
recorded (R61). -/
theorem setOutputs_inactive (s : State) :
    setOutputs .inactive s =
      { s with
        pinOnboard := List.replicate s.params.nOnboard .high, pinExt := .low,
        trace := .pins s.now .inactive :: s.trace } := rfl

/-- The event `Reset` (R196): the reset values of the block's fields and the pins driven inactive, in any state. -/
theorem perform_reset (s : State) :
    perform .reset s = .next (setOutputs .inactive
      { s with
        resp := 0#64, fsCache := s.params.fsReset, lastX := 0#16, active := false, deadline := 0, irqFlag := false,
        attached := false, busFault := false, halted := false, hold := .none }) := rfl

/-- Settles O15: the step performs the reset at the head of the inbox, and its pin write is the only record entry. -/
theorem resetInstallsResetValues : Obligations.ResetInstallsResetValues := by
  intro s rest hp hi
  rw [step_of_inbox hp hi, perform_reset, setOutputs_inactive]

end Sys2Proof.Machine

namespace Sys2Proof

/-! ### Words as fields (R85, R86) -/

/-- Two neighbouring fields are one field. -/
theorem field_append_field {w : Word} {lo m hi n : Nat} (h : hi = lo + m) :
    field w hi n ++ field w lo m = field w lo (n + m) :=
  BitVec.extractLsb'_append_extractLsb'_eq_extractLsb' h

/-- A field that lies in the must-be-zero bits of a legal word is zero (R86). -/
theorem field_eq_zero_of_mbz {w mbz : Word} (hz : w &&& mbz = 0#32) {lo n : Nat}
    (hm : field mbz lo n = BitVec.allOnes n) : field w lo n = 0#n := by
  have h := congrArg (field · lo n) hz
  simpa [field, BitVec.extractLsb'_and, show mbz.extractLsb' lo n = BitVec.allOnes n from hm] using h

theorem ofBool_getLsbD_eq_field (w : Word) (k : Nat) : BitVec.ofBool (w.getLsbD k) = field w k 1 := by
  ext j hj
  obtain rfl : j = 0 := by omega
  simp [field]

/-- A word is its opcode and its operand bits (R85). -/
theorem opcodeOf_append_operands (w : Word) : opcodeOf w ++ field w 0 24 = w :=
  (field_append_field rfl).trans BitVec.extractLsb'_eq_self

theorem encode_eq_of_fields {w : Word} {i : Instr} (ho : i.opcode = opcodeOf w) (hf : i.operands = field w 0 24) :
    encode i = w := by
  rw [encode, ho, hf, opcodeOf_append_operands]

/-- The three operand bytes of the raw-access formats (R86). -/
theorem field_encode_bytes {i : Instr} {a b c : Byte} (h : i.operands = a ++ b ++ c) :
    field (encode i) 16 8 = a ∧ field (encode i) 8 8 = b ∧ field (encode i) 0 8 = c := by
  refine ⟨?_, ?_, ?_⟩
  · rw [field_encode i (by decide), h, BitVec.extractLsb'_append_eq_of_le (by decide),
      BitVec.extractLsb'_append_eq_left]
  · rw [field_encode i (by decide), h, BitVec.extractLsb'_append_eq_of_le (by decide),
      BitVec.extractLsb'_append_eq_right]
  · rw [field_encode i (by decide), h, BitVec.extractLsb'_append_eq_right]

/-- Words that do not meet part by part do not meet. -/
theorem append_and_eq_zero {n k : Nat} {x m : BitVec n} {y l : BitVec k} (hx : x &&& m = 0#n)
    (hy : y &&& l = 0#k) : (x ++ y) &&& (m ++ l) = 0#(n + k) := by
  rw [BitVec.and_append, hx, hy, BitVec.zero_append_zero]

/-- The decoder reads a command back when the row of its opcode does (R89, R90). -/
theorem decode_encode_of_row {i : Instr} {r : CmdRow} (hr : r ∈ cmdRows) (ho : r.opcode = i.opcode)
    {m : BitVec 24} (hm : r.mbz = 0#8 ++ m) (hz : i.operands &&& m = 0#24) (hb : r.build (encode i) = i) :
    decode (encode i) = .ok i := by
  have hmbz : encode i &&& r.mbz = 0#32 := by rw [hm, encode, BitVec.and_append, hz, BitVec.and_zero]; rfl
  rw [decode_of_row hr (ho.trans (opcodeOf_encode i).symm), if_pos hmbz, hb]

theorem decode_encode_regrd (addr len : Byte) : decode (encode (.regrd addr len)) = .ok (.regrd addr len) := by
  obtain ⟨ha, hl, -⟩ := field_encode_bytes (i := .regrd addr len) rfl
  refine decode_encode_of_row (r := cmdRows[0]) (List.getElem_mem _) rfl (m := 0#8 ++ 0#8 ++ 0xFF#8) rfl
    (append_and_eq_zero (append_and_eq_zero BitVec.and_zero BitVec.and_zero) BitVec.zero_and)
    (congrArg₂ Instr.regrd ha hl)

theorem decode_encode_regwr (addr data : Byte) : decode (encode (.regwr addr data)) = .ok (.regwr addr data) := by
  obtain ⟨ha, hd, -⟩ := field_encode_bytes (i := .regwr addr data) rfl
  refine decode_encode_of_row (r := cmdRows[1]) (List.getElem_mem _) rfl (m := 0#8 ++ 0#8 ++ 0xFF#8) rfl
    (append_and_eq_zero (append_and_eq_zero BitVec.and_zero BitVec.and_zero) BitVec.zero_and)
    (congrArg₂ Instr.regwr ha hd)

theorem decode_encode_regrmw (addr mask value : Byte) :
    decode (encode (.regrmw addr mask value)) = .ok (.regrmw addr mask value) := by
  obtain ⟨ha, hm, hv⟩ := field_encode_bytes (i := .regrmw addr mask value) rfl
  refine decode_encode_of_row (r := cmdRows[2]) (List.getElem_mem _) rfl (m := 0#24) rfl BitVec.and_zero ?_
  exact congr (congrArg₂ Instr.regrmw ha hm) hv

theorem decode_encode_cfgmode (amode gmode : BitVec 4) :
    decode (encode (.cfgmode amode gmode)) = .ok (.cfgmode amode gmode) := by
  refine decode_encode_of_row (r := cmdRows[3]) (List.getElem_mem _) rfl (m := 0xFFF#12 ++ 0#4 ++ 0xF#4 ++ 0#4) rfl ?_
    (congrArg₂ Instr.cfgmode ?_ ?_)
  · exact append_and_eq_zero
      (append_and_eq_zero (append_and_eq_zero BitVec.zero_and BitVec.and_zero) BitVec.zero_and) BitVec.and_zero
  · rw [field_encode _ (by decide), Instr.operands, BitVec.extractLsb'_append_eq_of_le (by decide),
      BitVec.extractLsb'_append_eq_of_le (by decide), BitVec.extractLsb'_append_eq_right]
  · rw [field_encode _ (by decide), Instr.operands, BitVec.extractLsb'_append_eq_right]

theorem decode_encode_setfs (g : FsRange) : decode (encode (.setfs g)) = .ok (.setfs g) := by cases g <;> rfl

theorem decode_encode_setwkths (thr : BitVec 16) (hp : Bool) (dur : BitVec 2) :
    decode (encode (.setwkths thr hp dur)) = .ok (.setwkths thr hp dur) := by
  refine decode_encode_of_row (r := cmdRows[5]) (List.getElem_mem _) rfl (m := 0#16 ++ 0x1F#5 ++ 0#1 ++ 0#2) rfl ?_
    (congr (congrArg₂ Instr.setwkths ?_ ?_) ?_)
  · exact append_and_eq_zero
      (append_and_eq_zero (append_and_eq_zero BitVec.and_zero BitVec.zero_and) BitVec.and_zero) BitVec.and_zero
  · rw [field_encode _ (by decide), Instr.operands, BitVec.extractLsb'_append_eq_of_le (by decide),
      BitVec.extractLsb'_append_eq_of_le (by decide), BitVec.extractLsb'_append_eq_left]
  · rw [getLsbD_encode _ (by decide), Instr.operands, BitVec.getLsbD_append, if_neg (by decide), BitVec.getLsbD_append]
    simp
  · rw [field_encode _ (by decide), Instr.operands, BitVec.extractLsb'_append_eq_right]

theorem decode_encode_wkint (en : Bool) : decode (encode (.wkint en)) = .ok (.wkint en) := by cases en <;> rfl

theorem decode_encode_sleep (ms : BitVec 16) : decode (encode (.sleep ms)) = .ok (.sleep ms) := by
  refine decode_encode_of_row (r := cmdRows[18]) (List.getElem_mem _) rfl (m := 0xFF#8 ++ 0#16) rfl ?_
    (congrArg Instr.sleep ?_)
  · exact append_and_eq_zero BitVec.zero_and BitVec.and_zero
  · rw [field_encode _ (by decide), Instr.operands, BitVec.extractLsb'_append_eq_right]

/-- Settles O1, command by command; a command with no operands is one word. -/
theorem decodeEncodeRoundTrip : Obligations.DecodeEncodeRoundTrip := by
  intro i
  cases i with
  | regrd addr len => exact decode_encode_regrd addr len
  | regwr addr data => exact decode_encode_regwr addr data
  | regrmw addr mask value => exact decode_encode_regrmw addr mask value
  | cfgmode amode gmode => exact decode_encode_cfgmode amode gmode
  | setfs g => exact decode_encode_setfs g
  | setwkths thr hp dur => exact decode_encode_setwkths thr hp dur
  | wkint en => exact decode_encode_wkint en
  | sleep ms => exact decode_encode_sleep ms
  | rdaccel | drdyxl | drdyg | wkdet | wksrc | pulse | pollstep | attach | detach | mainchk | idle | shutdown => rfl

end Sys2Proof

namespace Sys2Proof

/-! ### A word has one meaning (R86, R89) -/

theorem encode_regrd_of_row {w : Word} (ho : opcodeOf w = 0x01#8) (hz : w &&& 0x000000FF#32 = 0#32) :
    encode (.regrd (field w 16 8) (field w 8 8)) = w := by
  refine encode_eq_of_fields ho.symm ?_
  rw [Instr.operands, ← field_eq_zero_of_mbz (lo := 0) hz rfl, field_append_field (by rfl), field_append_field (by rfl)]

theorem encode_regwr_of_row {w : Word} (ho : opcodeOf w = 0x02#8) (hz : w &&& 0x000000FF#32 = 0#32) :
    encode (.regwr (field w 16 8) (field w 8 8)) = w := by
  refine encode_eq_of_fields ho.symm ?_
  rw [Instr.operands, ← field_eq_zero_of_mbz (lo := 0) hz rfl, field_append_field (by rfl), field_append_field (by rfl)]

theorem encode_regrmw_of_row {w : Word} (ho : opcodeOf w = 0x03#8) :
    encode (.regrmw (field w 16 8) (field w 8 8) (field w 0 8)) = w := by
  refine encode_eq_of_fields ho.symm ?_
  rw [Instr.operands, field_append_field (by rfl), field_append_field (by rfl)]

theorem encode_cfgmode_of_row {w : Word} (ho : opcodeOf w = 0x10#8) (hz : w &&& 0x00FFF0F0#32 = 0#32) :
    encode (.cfgmode (field w 8 4) (field w 0 4)) = w := by
  refine encode_eq_of_fields ho.symm ?_
  rw [Instr.operands, ← field_eq_zero_of_mbz (lo := 12) hz rfl, ← field_eq_zero_of_mbz (lo := 4) hz rfl,
    field_append_field (by rfl), field_append_field (by rfl), field_append_field (by rfl)]

theorem encode_setfs_of_row {w : Word} (ho : opcodeOf w = 0x11#8) (hz : w &&& 0x00FFFFFC#32 = 0#32) :
    encode (.setfs (FsRange.ofIndex (field w 0 2))) = w := by
  refine encode_eq_of_fields ho.symm ?_
  rw [Instr.operands, index_ofIndex, ← field_eq_zero_of_mbz (lo := 2) hz rfl, field_append_field (by rfl)]

theorem encode_setwkths_of_row {w : Word} (ho : opcodeOf w = 0x12#8) (hz : w &&& 0x000000F8#32 = 0#32) :
    encode (.setwkths (field w 8 16) (w.getLsbD 2) (field w 0 2)) = w := by
  refine encode_eq_of_fields ho.symm ?_
  rw [Instr.operands, ofBool_getLsbD_eq_field, ← field_eq_zero_of_mbz (lo := 3) hz rfl, field_append_field (by rfl),
    field_append_field (by rfl), field_append_field (by rfl)]

theorem encode_wkint_of_row {w : Word} (ho : opcodeOf w = 0x13#8) (hz : w &&& 0x00FFFFFE#32 = 0#32) :
    encode (.wkint (w.getLsbD 0)) = w := by
  refine encode_eq_of_fields ho.symm ?_
  rw [Instr.operands, ofBool_getLsbD_eq_field, ← field_eq_zero_of_mbz (lo := 1) hz rfl, field_append_field (by rfl)]

theorem encode_sleep_of_row {w : Word} (ho : opcodeOf w = 0x36#8) (hz : w &&& 0x00FF0000#32 = 0#32) :
    encode (.sleep (field w 0 16)) = w := by
  refine encode_eq_of_fields ho.symm ?_
  rw [Instr.operands, ← field_eq_zero_of_mbz (lo := 16) hz rfl, field_append_field (by rfl)]

/-- A command with no operands has one word (R86). -/
theorem encode_bare_of_row (i : Instr) (hi : i.operands = 0#24) (w : Word) (ho : opcodeOf w = i.opcode)
    (hz : w &&& 0x00FFFFFF#32 = 0#32) : encode i = w :=
  encode_eq_of_fields ho.symm (hi.trans (field_eq_zero_of_mbz hz rfl).symm)

/-- The encoder writes every legal word of a row for the command the row builds from it (R86, R89). -/
theorem encode_build_of_row :
    ∀ r ∈ cmdRows, ∀ w : Word, opcodeOf w = r.opcode → w &&& r.mbz = 0#32 → encode (r.build w) = w := by
  simp only [cmdRows, List.forall_mem_append, List.forall_mem_cons]
  refine ⟨⟨⟨?_, ?_, ?_, ?_, ?_, ?_, ?_, nofun⟩, ?_, ?_, ?_, ?_, ?_, nofun⟩, ?_, ?_, ?_, ?_, ?_, ?_, ?_, ?_, nofun⟩
  · exact fun _ => encode_regrd_of_row
  · exact fun _ => encode_regwr_of_row
  · exact fun _ ho _ => encode_regrmw_of_row ho
  · exact fun _ => encode_cfgmode_of_row
  · exact fun _ => encode_setfs_of_row
  · exact fun _ => encode_setwkths_of_row
  · exact fun _ => encode_wkint_of_row
  · exact encode_bare_of_row .rdaccel rfl
  · exact encode_bare_of_row .drdyxl rfl
  · exact encode_bare_of_row .drdyg rfl
  · exact encode_bare_of_row .wkdet rfl
  · exact encode_bare_of_row .wksrc rfl
  · exact encode_bare_of_row .pulse rfl
  · exact encode_bare_of_row .pollstep rfl
  · exact encode_bare_of_row .attach rfl
  · exact encode_bare_of_row .detach rfl
  · exact encode_bare_of_row .mainchk rfl
  · exact encode_bare_of_row .idle rfl
  · exact fun _ => encode_sleep_of_row
  · exact encode_bare_of_row .shutdown rfl

/-- Settles O2: a word that decodes is a legal word of some row. -/
theorem encodeDecodeRoundTrip : Obligations.EncodeDecodeRoundTrip := by
  intro w i h
  obtain ⟨r, hr, ho, hz, rfl⟩ := decode_eq_ok h
  exact encode_build_of_row r hr w ho.symm hz

/-! ### The opcode table (R90) -/

theorem append_eq_append_iff {n k : Nat} {x x' : BitVec n} {y y' : BitVec k} :
    x ++ y = x' ++ y' ↔ x = x' ∧ y = y' := by
  refine ⟨fun h => ⟨?_, ?_⟩, fun ⟨hx, hy⟩ => by rw [hx, hy]⟩
  · simpa only [BitVec.extractLsb'_append_eq_left] using congrArg (BitVec.extractLsb' k n) h
  · simpa only [BitVec.extractLsb'_append_eq_right] using congrArg (BitVec.extractLsb' 0 k) h

/-- A row of the opcode table is the machine-readable form of a row of the opcode map: its mask is the opcode's bits
and the must-be-zero bits, its pattern the opcode alone. -/
structure OpcodeRow.Describes (r : OpcodeRow) (q : CmdRow) : Prop where
  mask : r.mask = 0xFF#8 ++ field q.mbz 0 24
  pattern : r.pattern = q.opcode ++ 0#24
  mbz : q.mbz = 0#8 ++ field q.mbz 0 24
  mnemonic : ∀ w, (q.build w).mnemonic = r.mnemonic

theorem opcodeTable_describes_cmdRows : List.Forall₂ OpcodeRow.Describes opcodeTable cmdRows := by
  unfold opcodeTable cmdRows
  repeat' constructor
  all_goals exact fun _ => rfl

theorem exists_cmdRow_of_opcodeRow {r : OpcodeRow} (hr : r ∈ opcodeTable) : ∃ q ∈ cmdRows, r.Describes q := by
  obtain ⟨k, hk, rfl⟩ := List.getElem_of_mem hr
  have hk' : k < cmdRows.length := opcodeTable_describes_cmdRows.length_eq ▸ hk
  exact ⟨_, List.getElem_mem hk', opcodeTable_describes_cmdRows.get hk hk'⟩

theorem exists_opcodeRow_of_cmdRow {q : CmdRow} (hq : q ∈ cmdRows) : ∃ r ∈ opcodeTable, r.Describes q := by
  obtain ⟨k, hk, rfl⟩ := List.getElem_of_mem hq
  have hk' : k < opcodeTable.length := opcodeTable_describes_cmdRows.length_eq ▸ hk
  exact ⟨_, List.getElem_mem hk', opcodeTable_describes_cmdRows.get hk' hk⟩

theorem opcodeTable_mnemonics_nodup : (opcodeTable.map OpcodeRow.mnemonic).Nodup := by decide

theorem OpcodeRow.Describes.opcodeOf_pattern {r : OpcodeRow} {q : CmdRow} (h : r.Describes q) :
    opcodeOf r.pattern = q.opcode := by
  rw [h.pattern]; exact BitVec.extractLsb'_append_eq_left

/-- The mask of a row selects the row's opcode with every must-be-zero bit clear (R90). -/
theorem OpcodeRow.Describes.selects_iff {r : OpcodeRow} {q : CmdRow} (h : r.Describes q) (w : Word) :
    w &&& r.mask = r.pattern ↔ opcodeOf w = q.opcode ∧ w &&& q.mbz = 0#32 := by
  have hmask : w &&& r.mask = opcodeOf w ++ (field w 0 24 &&& field q.mbz 0 24) := by
    rw [h.mask, ← opcodeOf_append_operands w, BitVec.and_append, opcodeOf_append_operands]
    exact congrArg (· ++ _) BitVec.and_allOnes
  have hmbz : w &&& q.mbz = 0#8 ++ (field w 0 24 &&& field q.mbz 0 24) := by
    rw [h.mbz, ← opcodeOf_append_operands w, BitVec.and_append, BitVec.and_zero, opcodeOf_append_operands, ← h.mbz]
  have hzero : (0#32 : Word) = 0#8 ++ 0#24 := rfl
  rw [hmask, h.pattern, append_eq_append_iff, hmbz, hzero, append_eq_append_iff]
  simp only [true_and]

/-- A word of a described row decodes exactly when the row's mask selects it. -/
theorem OpcodeRow.Describes.decode_eq {r : OpcodeRow} {q : CmdRow} (h : r.Describes q) (hq : q ∈ cmdRows) {w : Word}
    (ho : opcodeOf w = opcodeOf r.pattern) :
    decode w = if w &&& r.mask = r.pattern then .ok (q.build w) else .error .mbzBitSet := by
  rw [h.opcodeOf_pattern] at ho
  rw [decode_of_row hq ho.symm]
  simp only [h.selects_iff, ho, true_and]

/-- Settles O3: a row's mask selects the words of the one row of the opcode map that it describes. -/
theorem decodeMatchesOpcodeTable : Obligations.DecodeMatchesOpcodeTable := by
  intro r hr w
  obtain ⟨q, hq, hrq⟩ := exists_cmdRow_of_opcodeRow hr
  constructor
  · intro hsel
    have ho : opcodeOf w = opcodeOf r.pattern := hrq.opcodeOf_pattern ▸ ((hrq.selects_iff w).mp hsel).1
    exact ⟨q.build w, by rw [hrq.decode_eq hq ho, if_pos hsel], hrq.mnemonic w⟩
  · rintro ⟨i, hd, hname⟩
    obtain ⟨q', hq', ho, hz, rfl⟩ := decode_eq_ok hd
    obtain ⟨r', hr', hrq'⟩ := exists_opcodeRow_of_cmdRow hq'
    have hrr : r' = r :=
      List.inj_on_of_nodup_map opcodeTable_mnemonics_nodup hr' hr ((hrq'.mnemonic w).symm.trans hname)
    exact hrr ▸ (hrq'.selects_iff w).mpr ⟨ho.symm, hz⟩

/-- Settles O4: no row has the opcode, or a row has it and its mask finds a must-be-zero bit set. -/
theorem illegalWordReasons : Obligations.IllegalWordReasons := by
  intro w
  refine ⟨decode_eq_unknown_iff.trans ⟨fun h r hr ho => ?_, fun h q hq ho => ?_⟩, fun h => ?_, ?_⟩
  · obtain ⟨q, hq, hrq⟩ := exists_cmdRow_of_opcodeRow hr
    exact h q hq (hrq.opcodeOf_pattern.symm.trans ho.symm)
  · obtain ⟨r, hr, hrq⟩ := exists_opcodeRow_of_cmdRow hq
    exact h r hr (ho.symm.trans hrq.opcodeOf_pattern.symm)
  · have hknown : ¬ decode w = .error .unknownOpcode := by rw [h]; nofun
    simp only [decode_eq_unknown_iff, not_forall, not_not] at hknown
    obtain ⟨q, hq, ho⟩ := hknown
    obtain ⟨r, hr, hrq⟩ := exists_opcodeRow_of_cmdRow hq
    have ho' : opcodeOf w = opcodeOf r.pattern := ho.symm.trans hrq.opcodeOf_pattern.symm
    refine ⟨r, hr, ho', fun hsel => ?_⟩
    rw [hrq.decode_eq hq ho', if_pos hsel] at h
    cases h
  · rintro ⟨r, hr, ho, hsel⟩
    obtain ⟨q, hq, hrq⟩ := exists_cmdRow_of_opcodeRow hr
    rw [hrq.decode_eq hq ho, if_neg hsel]

/-- Settles O5: the words are decoded one by one. -/
theorem decodeExampleWords : Obligations.DecodeExampleWords := by
  refine ⟨?_, ?_, ?_, ?_, ?_, ?_, ?_, ?_, ?_⟩ <;> rfl

/-- Settles O6: the lines are assembled one by one. -/
theorem assembleExampleLines : Obligations.AssembleExampleLines := by
  refine ⟨?_, ?_, ?_, ?_, ?_, ?_, ?_, ?_⟩ <;> decide

end Sys2Proof

namespace Sys2Proof.Machine

/-! ### `Settle`, clause by clause (R142)

`Settle` has two clauses. Each has a condition, named here, and one effect. -/

/-- The deferred auto-clear is due: the first clause of `Settle` (R142). -/
def State.ClearDue (s : State) : Prop := s.params.pulseImpl = .deadline ∧ s.active = true ∧ s.deadline ≤ s.now

/-- The hold has a reason to be lifted: the second clause of `Settle` (R142). -/
def State.HoldDue (s : State) : Prop :=
  match s.hold with
  | .none => False
  | .block u => u ≤ s.now
  | .sleep u => u ≤ s.now
  | .idle u => u ≤ s.now ∨ (s.params.idleWakesOnIrq = true ∧ s.irqFlag = true)

theorem settleHold_of_not_due {s : State} (h : ¬ s.HoldDue) : settleHold s = s := by
  unfold State.HoldDue at h
  unfold settleHold
  cases hh : s.hold <;> simp only [hh] at h ⊢
  all_goals exact if_neg h

/-- The end of a blocking pulse. -/
theorem settleHold_of_block {s : State} {u : Nat} (hh : s.hold = .block u) (hu : u ≤ s.now) :
    settleHold s = { endPulse s with hold := .none } := by
  simp only [settleHold, hh, if_pos hu]

/-- The end of a brief suspension or of a low-power wait. -/
theorem settleHold_of_wait {s : State} (h : s.HoldDue) (hb : ∀ u, s.hold ≠ .block u) :
    settleHold s = { s with hold := .none } := by
  unfold State.HoldDue at h
  unfold settleHold
  cases hh : s.hold with
  | none => simp only [hh] at h
  | block u => exact absurd hh (hb u)
  | sleep u => simp only [hh] at h ⊢; exact if_pos h
  | idle u => simp only [hh] at h ⊢; exact if_pos h

/-- A clear leaves the hold, and what decides whether it is lifted, alone. -/
theorem settleClear_eq_or (s : State) : settleClear s = s ∨ settleClear s = endPulse s := by
  by_cases h : s.ClearDue
  · exact .inr (settleClear_of_due h)
  · exact .inl (settleClear_of_not_due h)

@[simp] theorem settleClear_hold (s : State) : (settleClear s).hold = s.hold := by
  obtain h | h := settleClear_eq_or s <;> rw [h]; rfl

theorem holdDue_settleClear (s : State) : (settleClear s).HoldDue ↔ s.HoldDue := by
  obtain h | h := settleClear_eq_or s <;> rw [h]; rfl

/-- What becomes of the hold (R142). -/
theorem settle_hold_of_due {s : State} (h : s.HoldDue) : (settle s).hold = .none := by
  have h' := (holdDue_settleClear s).mpr h
  by_cases hb : ∃ u, s.hold = .block u
  · obtain ⟨u, hu⟩ := hb
    have hu' : (settleClear s).hold = .block u := (settleClear_hold s).trans hu
    rw [State.HoldDue, hu'] at h'
    rw [settle, settleHold_of_block hu' h']
  · rw [settle, settleHold_of_wait h' (by simpa using hb)]

theorem settle_hold_of_not_due {s : State} (h : ¬ s.HoldDue) : (settle s).hold = s.hold := by
  rw [settle, settleHold_of_not_due (mt (holdDue_settleClear s).mp h), settleClear_hold]

/-- The second clause as one update (R142): `ended` says that a blocking pulse is over, `lift` that a hold is. -/
theorem settleHold_eq {s : State} {ended lift : Bool} (he : ended = true ↔ ∃ u, s.hold = .block u ∧ u ≤ s.now)
    (hl : lift = true ↔ s.HoldDue) :
    settleHold s = { (if ended then endPulse s else s) with hold := if lift then .none else s.hold } := by
  by_cases hblock : ∃ u, s.hold = .block u ∧ u ≤ s.now
  · obtain ⟨u, hh, hu⟩ := hblock
    have hdue : s.HoldDue := by rw [State.HoldDue, hh]; exact hu
    rw [settleHold_of_block hh hu, if_pos (he.mpr ⟨u, hh, hu⟩), if_pos (hl.mpr hdue)]
  · rw [if_neg (mt he.mp hblock)]
    by_cases hdue : s.HoldDue
    · rw [settleHold_of_wait hdue fun u hh => hblock ⟨u, hh, by rwa [State.HoldDue, hh] at hdue⟩, if_pos (hl.mpr hdue)]
    · rw [settleHold_of_not_due hdue, if_neg (mt hl.mp hdue)]

/-- Both clauses as one update (R142). -/
theorem settle_eq {s : State} {clear ended lift : Bool} (hc : clear = true ↔ s.ClearDue)
    (he : ended = true ↔ ∃ u, s.hold = .block u ∧ u ≤ s.now) (hl : lift = true ↔ s.HoldDue) :
    settle s =
      { s with
        active := s.active && !(clear || ended),
        hold := (if lift then .none else s.hold),
        pinOnboard := (if clear || ended then List.replicate s.params.nOnboard .high else s.pinOnboard),
        pinExt := (if clear || ended then .low else s.pinExt),
        trace := (if ended then [.pins s.now .inactive] else []) ++ (if clear then [.pins s.now .inactive] else []) ++
          s.trace } := by
  cases clear with
  | false =>
    rw [settle, settleClear_of_not_due (mt hc.mpr Bool.false_ne_true), settleHold_eq he hl]
    cases ended <;> simp [endPulse, setOutputs, OutputKind.onboardLevel, OutputKind.extLevel]
  | true =>
    rw [settle, settleClear_of_due (hc.mp rfl), settleHold_eq (s := endPulse s) he hl]
    cases ended <;> simp [endPulse, setOutputs, OutputKind.onboardLevel, OutputKind.extLevel]

/-- Settles O34: the statement's three conditions are those of the two clauses. -/
theorem settleClearsAndLifts : Obligations.SettleClearsAndLifts := by
  intro s clear unblock lift
  refine settle_eq decide_eq_true_iff ?_ ?_
  · simp only [unblock]; cases s.hold <;> simp
  · simp only [lift, State.HoldDue]; cases s.hold <;> simp

end Sys2Proof.Machine

namespace Sys2Proof.Machine

/-! ### What a bus operation leaves unchanged -/

section
variable {s t : State} (h : BusFrame s t)
include h

theorem BusFrame.params : t.params = s.params := by rw [h.only]
theorem BusFrame.fsCache : t.fsCache = s.fsCache := by rw [h.only]
theorem BusFrame.lastX : t.lastX = s.lastX := by rw [h.only]
theorem BusFrame.active : t.active = s.active := by rw [h.only]
theorem BusFrame.deadline : t.deadline = s.deadline := by rw [h.only]
theorem BusFrame.irqFlag : t.irqFlag = s.irqFlag := by rw [h.only]
theorem BusFrame.attached : t.attached = s.attached := by rw [h.only]
theorem BusFrame.busFault : t.busFault = s.busFault := by rw [h.only]
theorem BusFrame.halted : t.halted = s.halted := by rw [h.only]
theorem BusFrame.hold : t.hold = s.hold := by rw [h.only]
theorem BusFrame.now : t.now = s.now := by rw [h.only]
theorem BusFrame.inbox : t.inbox = s.inbox := by rw [h.only]

end

/-! ### What a command can do -/

/-- A trigger of the main context (R141): the pins lit for one duration, and under the blocking implementation a hold
until then. -/
theorem pulseTrigger_main (s : State) :
    pulseTrigger .main s =
      { startPulse s with
        hold := match s.params.pulseImpl with
          | .deadline => s.hold
          | .blocking => .block (s.now + s.params.durationMs) } := by
  unfold pulseTrigger
  cases s.params.pulseImpl <;> rfl

/-- What a command may do to the block beside its bus transactions, `RESP` and `bus_fault` (R110 to R159); an illegal,
out-of-range or failed command does nothing more, and so do most of the others. -/
inductive CmdChange : Instr → State → State → Prop where
  | keeps (i : Instr) (s : State) : CmdChange i s s
  | setfs (g : FsRange) (s : State) : CmdChange (.setfs g) s { s with fsCache := g }
  | pulse (s : State) : CmdChange .pulse s (pulseTrigger .main s)
  | sample (x : AxisWord) (s : State) : CmdChange .pollstep s { s with lastX := x }
  | trigger (x : AxisWord) (s : State) : CmdChange .pollstep s { pulseTrigger .main s with lastX := x }
  | attach (s : State) (h : s.params.strategy = .interrupt) : CmdChange .attach s { s with attached := true }
  | detach (s : State) : CmdChange .detach s { s with attached := false }
  | mainchk (s : State) : CmdChange .mainchk s { s with irqFlag := false }
  | idle (s : State) (h : s.params.strategy = .interrupt) :
    CmdChange .idle s { s with hold := .idle (s.now + s.params.idleTimeoutMs) }
  | sleep (ms : BitVec 16) (s : State) : CmdChange (.sleep ms) s { s with hold := .sleep (s.now + ms.toNat) }
  | shutdown (s : State) :
    CmdChange .shutdown s { endPulse { s with attached := false } with hold := .none, halted := true }

/-- What a command that answers a next state did: its bus transactions, its change, the sticky flag when a transaction
failed, and a response with data only when its status is OK (R98, R167 to R169). -/
def CmdAnswer (i : Instr) (s t : State) : Prop :=
  ∃ u v st d failed, BusFrame s u ∧ CmdChange i u v ∧ (st ≠ .ok → d = 0#48) ∧
    t = respond st d { v with busFault := failed || v.busFault }

theorem CmdAnswer.done {i : Instr} {s u v : State} (hf : BusFrame s u) (hc : CmdChange i u v) (d : RespData) :
    CmdAnswer i s (respond .ok d v) := ⟨u, v, .ok, d, false, hf, hc, nofun, rfl⟩

theorem CmdAnswer.illegal (i : Instr) (s : State) : CmdAnswer i s (illegal s) :=
  ⟨s, s, _, _, false, BusFrame.refl s, .keeps i s, fun _ => rfl, rfl⟩

theorem CmdAnswer.badOperand (i : Instr) (s : State) : CmdAnswer i s (badOperand s) :=
  ⟨s, s, _, _, false, BusFrame.refl s, .keeps i s, fun _ => rfl, rfl⟩

theorem CmdAnswer.busError {i : Instr} {s u : State} (hf : BusFrame s u) : CmdAnswer i s (raiseBusError u) :=
  ⟨u, u, _, _, true, hf, .keeps i u, fun _ => rfl, rfl⟩

/-- A command that ends with its bus operations did its change, or failed. -/
theorem cmdAnswer_of_conclude {α : Type} {i : Instr} {s t : State} {r : BusRes α} {k : α → State → State}
    (hf : r.Ends (BusFrame s)) (hk : ∀ a u, ∃ v d, CmdChange i u v ∧ k a u = respond .ok d v)
    (h : r.conclude k = .next t) : CmdAnswer i s t := by
  obtain ⟨a, u, rfl, rfl⟩ | ⟨u, rfl, rfl⟩ := BusRes.conclude_next h
  · obtain ⟨v, d, hc, hkv⟩ := hk a u
    exact hkv ▸ .done hf hc d
  · exact .busError hf

/-- A command of one strategy runs under it and is illegal under the other (R92). -/
theorem requireStrategy_next {st : Strategy} {s t : State} {body : Result}
    (h : requireStrategy st s body = .next t) :
    (s.params.strategy = st ∧ body = .next t) ∨ t = illegal s := by
  unfold requireStrategy at h
  split at h
  · next hst => exact .inl ⟨hst, h⟩
  · exact .inr (by simpa using h.symm)

theorem execRegrd_next {addr len : Byte} {s t : State} (h : execRegrd addr len s = .next t) :
    CmdAnswer (.regrd addr len) s t := by
  unfold execRegrd at h
  split at h
  · exact cmdAnswer_of_conclude (memRead_frame ..) (fun _ u => ⟨u, _, .keeps _ u, rfl⟩) h
  · cases h; exact .badOperand ..

theorem execRegwr_next {addr data : Byte} {s t : State} (h : execRegwr addr data s = .next t) :
    CmdAnswer (.regwr addr data) s t :=
  cmdAnswer_of_conclude (memWrite_frame ..) (fun _ u => ⟨u, _, .keeps _ u, rfl⟩) h

theorem execRegrmw_next {addr mask value : Byte} {s t : State} (h : execRegrmw addr mask value s = .next t) :
    CmdAnswer (.regrmw addr mask value) s t :=
  cmdAnswer_of_conclude (rmw_frame ..) (fun _ u => ⟨u, _, .keeps _ u, rfl⟩) h

theorem execCfgmode_next {amode gmode : BitVec 4} {s t : State} (h : execCfgmode amode gmode s = .next t) :
    CmdAnswer (.cfgmode amode gmode) s t := by
  unfold execCfgmode at h
  split at h
  · refine cmdAnswer_of_conclude ?_ (fun _ u => ⟨u, _, .keeps _ u, rfl⟩) h
    exact (rmw_frame ..).bind fun _ t => (rmw_frame _ _ _ t).bind fun _ u => BusFrame.refl u
  · cases h; exact .badOperand ..

theorem execSetfs_next {g : FsRange} {s t : State} (h : execSetfs g s = .next t) : CmdAnswer (.setfs g) s t :=
  cmdAnswer_of_conclude (rmw_frame ..) (fun _ u => ⟨_, _, .setfs g u, rfl⟩) h

theorem execSetwkths_next {thr : BitVec 16} {hp : Bool} {dur : BitVec 2} {s t : State}
    (h : execSetwkths thr hp dur s = .next t) : CmdAnswer (.setwkths thr hp dur) s t :=
  cmdAnswer_of_conclude ((rmw_frame ..).bind fun _ t => (rmw_frame _ _ _ t).bind fun _ u => rmw_frame _ _ _ u)
    (fun _ u => ⟨u, _, .keeps _ u, rfl⟩) h

theorem execWkint_next {en : Bool} {s t : State} (h : execWkint en s = .next t) : CmdAnswer (.wkint en) s t :=
  cmdAnswer_of_conclude (rmw_frame ..) (fun _ u => ⟨u, _, .keeps _ u, rfl⟩) h

theorem pollDetect_change (v : Sample) (s : State) :
    ∃ u d, CmdChange .pollstep s u ∧ pollDetect v s = respond .ok d u := by
  unfold pollDetect
  cases decide (s.params.threshold < sampleDelta v.x s.lastX) with
  | false => exact ⟨_, _, .sample v.x s, rfl⟩
  | true => exact ⟨_, _, .trigger v.x s, rfl⟩

/-- POLLSTEP is one bus read, or two and the detection (R144). -/
theorem execPollstep_next {s t : State} (h : execPollstep s = .next t) : CmdAnswer .pollstep s t := by
  obtain ⟨-, h⟩ | rfl := requireStrategy_next h
  · have hread := readByte_frame s.params.aStatus s
    obtain ⟨_, u, hok, rfl⟩ | ⟨u, herr, rfl⟩ := BusRes.conclude_next h
    · obtain ⟨v, w, hv, hw⟩ := BusRes.bind_eq_ok hok
      rw [hv] at hread
      split at hw
      · have hburst := memRead_frame s.params.aOutXl 6 w
        obtain ⟨b, x, hb, hx⟩ := BusRes.bind_eq_ok hw
        rw [hb] at hburst
        cases hx
        obtain ⟨y, d, hc, hy⟩ := pollDetect_change (decodeSample b) x
        exact hy ▸ .done (BusFrame.trans hread hburst) hc d
      · cases hw
        exact .done hread (.keeps _ w) _
    · obtain herr | ⟨v, w, hv, hw⟩ := BusRes.bind_eq_err herr
      · rw [herr] at hread
        exact .busError hread
      · rw [hv] at hread
        split at hw
        · have hburst := memRead_frame s.params.aOutXl 6 w
          obtain hw | ⟨b, x, hb, hx⟩ := BusRes.bind_eq_err hw
          · rw [hw] at hburst
            exact .busError (BusFrame.trans hread hburst)
          · cases hx
        · cases hw
  · exact .illegal ..

theorem execMainchk_next {s t : State} (h : execMainchk s = .next t) : CmdAnswer .mainchk s t := by
  obtain ⟨-, h⟩ | rfl := requireStrategy_next h
  · split at h
    · exact cmdAnswer_of_conclude (readByte_frame ..) (fun _ u => ⟨_, _, .mainchk u, rfl⟩) h
    · cases h; exact .done (BusFrame.refl s) (.keeps _ s) _
  · exact .illegal ..

theorem execAttach_next {s t : State} (h : execAttach s = .next t) : CmdAnswer .attach s t := by
  obtain ⟨hst, h⟩ | rfl := requireStrategy_next h
  · cases h; exact .done (BusFrame.refl s) (.attach s hst) _
  · exact .illegal ..

theorem execDetach_next {s t : State} (h : execDetach s = .next t) : CmdAnswer .detach s t := by
  obtain ⟨-, h⟩ | rfl := requireStrategy_next h
  · cases h; exact .done (BusFrame.refl s) (.detach s) _
  · exact .illegal ..

theorem execIdle_next {s t : State} (h : execIdle s = .next t) : CmdAnswer .idle s t := by
  obtain ⟨hst, h⟩ | rfl := requireStrategy_next h
  · cases h; exact .done (BusFrame.refl s) (.idle s hst) _
  · exact .illegal ..

/-- SHUTDOWN cleans up after a failed transaction too (R159). -/
theorem execShutdown_next {s t : State} (h : execShutdown s = .next t) : CmdAnswer .shutdown s t := by
  have hf := rmw_frame s.params.aIntRoute (routeMask s.params) 0#8 s
  unfold execShutdown at h
  split at h
  · next u hr => rw [hr] at hf; cases h; exact .done hf (.shutdown u) _
  · next u hr => rw [hr] at hf; cases h; exact ⟨u, _, .busError, _, true, hf, .shutdown u, fun _ => rfl, rfl⟩
  · cases h

/-- What any command that answers a next state did. -/
theorem exec_next {i : Instr} {s t : State} (h : exec i s = .next t) : CmdAnswer i s t := by
  cases i with
  | regrd addr len => exact execRegrd_next h
  | regwr addr data => exact execRegwr_next h
  | regrmw addr mask value => exact execRegrmw_next h
  | cfgmode amode gmode => exact execCfgmode_next h
  | setfs g => exact execSetfs_next h
  | setwkths thr hp dur => exact execSetwkths_next h
  | wkint en => exact execWkint_next h
  | rdaccel => exact cmdAnswer_of_conclude (memRead_frame ..) (fun _ u => ⟨u, _, .keeps _ u, rfl⟩) h
  | drdyxl | drdyg | wkdet | wksrc =>
    exact cmdAnswer_of_conclude (readByte_frame ..) (fun _ u => ⟨u, _, .keeps _ u, rfl⟩) h
  | pulse => cases h; exact .done (BusFrame.refl s) (.pulse s) _
  | pollstep => exact execPollstep_next h
  | attach => exact execAttach_next h
  | detach => exact execDetach_next h
  | mainchk => exact execMainchk_next h
  | idle => exact execIdle_next h
  | sleep ms => cases h; exact .done (BusFrame.refl s) (.sleep ms s) _
  | shutdown => exact execShutdown_next h

/-- Settles O45: the CSR unit's commands change `fs_cache` at most, beside their transactions and their answer. -/
theorem csrUnitNeverWritesTimerState : Obligations.CsrUnitNeverWritesTimerState := by
  intro i s t hcsr h
  obtain ⟨u, v, st, d, failed, hf, hc, -, rfl⟩ := exec_next h
  cases hc with
  | keeps => rw [hf.only]; rfl
  | setfs g => rw [hf.only]; rfl
  | pulse | sample | trigger | attach | detach | mainchk | idle | sleep | shutdown => exact hcsr.elim

/-- Settles O47: what each command's change leaves alone. -/
theorem onlyTheNamedCommandsWriteEachState : Obligations.OnlyTheNamedCommandsWriteEachState := by
  intro i s t h
  obtain ⟨u, v, st, d, failed, hf, hc, -, rfl⟩ := exec_next h
  simp only [respond_params, respond_now, respond_inbox, respond_fsCache, respond_lastX, respond_active,
    respond_deadline, respond_irqFlag, respond_attached, respond_halted, respond_hold, ← hf.params, ← hf.now,
    ← hf.inbox, ← hf.fsCache, ← hf.lastX, ← hf.active, ← hf.deadline, ← hf.irqFlag, ← hf.attached, ← hf.halted,
    ← hf.hold]
  cases hc <;> simp [pulseTrigger_main]

end Sys2Proof.Machine

namespace Sys2Proof.Machine

/-! ### Every command completes -/

theorem requireStrategy_answers {st : Strategy} {s : State} {body : Result} (h : ∃ t, body = .next t) :
    ∃ t, requireStrategy st s body = .next t := by
  unfold requireStrategy
  split
  · exact h
  · exact ⟨_, rfl⟩

theorem execRegrd_answers (addr len : Byte) (s : State) : ∃ t, execRegrd addr len s = .next t := by
  unfold execRegrd
  split
  · next hr =>
    simp only [regrdInRange, Bool.and_eq_true, decide_eq_true_eq] at hr
    exact (memRead_runs hr.2 s).conclude _
  · exact ⟨_, rfl⟩

theorem execCfgmode_answers (amode gmode : BitVec 4) (s : State) : ∃ t, execCfgmode amode gmode s = .next t := by
  unfold execCfgmode
  split
  · refine BusRes.Runs.conclude ?_ _
    exact (rmw_runs ..).bind fun _ t => (rmw_runs _ _ _ t).bind fun _ _ => trivial
  · exact ⟨_, rfl⟩

theorem execSetwkths_answers (thr : BitVec 16) (hp : Bool) (dur : BitVec 2) (s : State) :
    ∃ t, execSetwkths thr hp dur s = .next t := by
  refine BusRes.Runs.conclude ?_ _
  exact (rmw_runs ..).bind fun _ t => (rmw_runs _ _ _ t).bind fun _ u => rmw_runs _ _ _ u

theorem execPollstep_answers {s : State} (hp : s.params.admissible = true) : ∃ t, execPollstep s = .next t := by
  refine requireStrategy_answers (BusRes.Runs.conclude ?_ _)
  refine (readByte_runs ..).bind fun v t => ?_
  split
  · exact (memRead_runs (burst_fits hp) t).bind fun _ _ => trivial
  · trivial

theorem execMainchk_answers (s : State) : ∃ t, execMainchk s = .next t := by
  refine requireStrategy_answers ?_
  split
  · exact (readByte_runs ..).conclude _
  · exact ⟨_, rfl⟩

theorem execShutdown_answers (s : State) : ∃ t, execShutdown s = .next t := by
  have hr := rmw_runs s.params.aIntRoute (routeMask s.params) 0#8 s
  unfold execShutdown
  split
  · exact ⟨_, rfl⟩
  · exact ⟨_, rfl⟩
  · next hstop => rw [hstop] at hr; exact hr.elim

/-- Settles O44: no bus operation of an admissible deployment can stop a command. -/
theorem everyCommandAnswersANextState : Obligations.EveryCommandAnswersANextState := by
  intro i s hp
  cases i with
  | regrd addr len => exact execRegrd_answers addr len s
  | regwr addr data => exact (memWrite_runs addr data s).conclude _
  | regrmw addr mask value => exact (rmw_runs addr mask value s).conclude _
  | cfgmode amode gmode => exact execCfgmode_answers amode gmode s
  | setfs g => exact (rmw_runs _ _ _ s).conclude _
  | setwkths thr hp dur => exact execSetwkths_answers thr hp dur s
  | wkint en => exact (rmw_runs _ _ _ s).conclude _
  | rdaccel => exact (memRead_runs (burst_fits hp) s).conclude _
  | drdyxl | drdyg | wkdet | wksrc => exact (readByte_runs _ s).conclude _
  | pulse => exact ⟨_, rfl⟩
  | pollstep => exact execPollstep_answers hp
  | attach | detach | idle => exact requireStrategy_answers ⟨_, rfl⟩
  | mainchk => exact execMainchk_answers s
  | sleep ms => exact ⟨_, rfl⟩
  | shutdown => exact execShutdown_answers s

/-! ### The step, event by event -/

/-- Settles O7: an accepted word that decodes runs its command, which answers. -/
theorem stepRunsDecodedCommand : Obligations.StepRunsDecodedCommand := by
  intro s w rest i hp hi hhalt hhold hd
  obtain ⟨t, ht⟩ := everyCommandAnswersANextState i { s with inbox := rest } hp
  exact ⟨t, ht, step_of_exec hp hi (accepts_eq_true_iff.mpr ⟨hhalt, hhold⟩) hd ht⟩

/-- Settles O10: the port does not accept the word. -/
theorem stepStallsUnacceptedCommand : Obligations.StepStallsUnacceptedCommand := by
  intro s w rest hp hi hbusy
  have hacc : State.accepts { s with inbox := rest } w = false := by
    rw [← Bool.not_eq_true, accepts_eq_true_iff]
    rintro ⟨hhalt, hhold⟩
    obtain h | ⟨h, hop⟩ := hbusy
    · simp [h] at hhalt
    · exact hhold.elim h hop
  rw [step_of_inbox hp hi]
  exact presentCommand_of_stalled hacc

theorem tableWord_toNat (w : Word) : tableWord 32 w.toNat = w := by
  simp [tableWord, Nat.mod_eq_of_lt w.isLt]

/-- Settles O11: the placed word is the next event, and the port accepts it. -/
theorem stepRunsPlacedWord : Obligations.StepRunsPlacedWord := by
  intro s w i hp hd
  obtain ⟨t, ht⟩ := everyCommandAnswersANextState i { s with hold := .none, halted := false } hp
  refine ⟨t, ht, ?_⟩
  rw [State.withFetchWord, tableWord_toNat]
  exact step_of_exec (s := presentNext w s) (rest := s.inbox) hp rfl (accepts_eq_true_iff.mpr ⟨rfl, .inl rfl⟩) hd ht

/-- Settles O43: the edge is dropped at the interrupt line. -/
theorem detachedEdgeIsForgotten : Obligations.DetachedEdgeIsForgotten := by
  intro s rest hp hi hr ha
  rw [step_of_inbox hp hi]
  exact intRise_of_detached hr ha

theorem setReg_regAt {s : State} (hm : Memory.wf s.reg = true) (a v b : Byte) :
    (s.setReg a v).regAt b = if a = b then v else s.regAt b := by
  simp only [State.regAt, setReg_reg, Memory.read_write hm, BitVec.toNat_inj]

theorem sensorWrite_of_volatile {a v : Byte} {s : State} (ha : isConfigOffset s.params a = false) :
    sensorWrite a v s = .next (s.setReg a v) := if_neg (by simp [ha])

theorem sensorWrite_of_config {a v : Byte} {s : State} (ha : isConfigOffset s.params a = true) :
    sensorWrite a v s = .refused (.inadmissibleSensorWrite a) := if_pos ha

/-- Settles O13: the write of a volatile register, then the two refusals. -/
theorem sensorEventsAndTheirGates : Obligations.SensorEventsAndTheirGates := by
  intro s rest hp
  refine ⟨fun a v hi ha hm => ⟨State.setReg { s with inbox := rest } a v, ?_, rfl, ?_, fun b hb => ?_⟩,
    fun a v hi ha => ?_, fun hi hr => ?_⟩
  · rw [step_of_inbox hp hi]; exact sensorWrite_of_volatile ha
  · exact (setReg_regAt (s := { s with inbox := rest }) hm a v a).trans (if_pos rfl)
  · exact (setReg_regAt (s := { s with inbox := rest }) hm a v b).trans (if_neg fun h => hb (by simp [h]))
  · rw [step_of_inbox hp hi]; exact sensorWrite_of_config ha
  · rw [step_of_inbox hp hi]; exact intRise_of_unrouted hr

theorem presentCommand_answers {s : State} (hp : s.params.admissible = true) (w : Word) :
    ∃ t, presentCommand w s = .next t := by
  cases hacc : s.accepts w with
  | false => exact ⟨s, presentCommand_of_stalled hacc⟩
  | true =>
    cases hd : decode w with
    | error e => exact ⟨_, presentCommand_of_error hacc hd⟩
    | ok i =>
      obtain ⟨t, ht⟩ := everyCommandAnswersANextState i s hp
      exact ⟨settle t, by rw [presentCommand_of_ok hacc hd, ht]; rfl⟩

theorem takeInterrupt_answers (s : State) : ∃ t, takeInterrupt s = .next t := by
  have hr := readByte_runs s.params.aWkSrc s
  cases h : readByte s.params.aWkSrc s with
  | ok v t => exact ⟨_, takeInterrupt_of_ok h⟩
  | err t => exact ⟨_, takeInterrupt_of_err h⟩
  | stop f => rw [h] at hr; exact hr.elim

theorem intRise_answers {s : State} (hr : s.routed = true) : ∃ t, intRise s = .next t := by
  cases ha : s.attached with
  | false => exact ⟨s, intRise_of_detached hr ha⟩
  | true => rw [intRise_of_attached hr ha]; exact takeInterrupt_answers s

/-- Settles O12, event by event. -/
theorem stepAnswersAdmissibleEvents : Obligations.StepAnswersAdmissibleEvents := by
  intro s hp hadm
  cases hi : s.inbox with
  | nil => exact ⟨s, step_of_empty hi⟩
  | cons e rest =>
    obtain ⟨hrise, hwrite⟩ := hadm e rest hi
    rw [step_of_inbox hp hi]
    cases e with
    | cmd w => exact presentCommand_answers (s := { s with inbox := rest }) hp w
    | tick | reset | busFail => exact ⟨_, rfl⟩
    | sensorWrite a v => exact ⟨_, sensorWrite_of_volatile (hwrite a v rfl)⟩
    | intRise => exact intRise_answers (hrise rfl)

end Sys2Proof.Machine

namespace Sys2Proof.Machine

/-! ### The invariant between a command and its `Settle`

`Settle` restores the two clauses of the invariant that compare with `now`. Before it runs, a pulse or a hold may be
due; everything else of the invariant holds already. -/

/-- A hold as it may be before `Settle`: a blocking hold is due when it is not the hold of the lit indicator. -/
def State.HoldSound (s : State) : Prop :=
  match s.hold with
  | .none => True
  | .sleep _ => True
  | .idle _ => s.params.strategy = .interrupt
  | .block u => s.params.pulseImpl = .blocking ∧ (u ≤ s.now ∨ (s.active = true ∧ u = s.deadline))

/-- The invariant of a run without what `Settle` restores. -/
structure State.InvBeforeSettle (s : State) : Prop where
  params : s.params.admissible = true
  memory : Memory.wf s.reg = true
  resp : s.RespOk
  pins : s.PinsAt s.pinKind
  recorded : lastPins s.trace = some s.pinKind
  attached : s.attached = true → s.halted = false ∧ s.params.strategy = .interrupt
  irqFlag : s.irqFlag = true → s.params.strategy = .interrupt
  halted : s.halted = true → s.attached = false ∧ s.active = false ∧ s.hold = .none
  pulse : s.active = true → s.deadline ≤ s.now + s.params.durationMs ∧
    (s.params.pulseImpl = .blocking → s.hold = .block s.deadline)
  hold : s.HoldSound

theorem State.HoldPending.sound {s : State} (h : s.HoldPending) : s.HoldSound := by
  unfold State.HoldPending at h
  unfold State.HoldSound
  cases hh : s.hold with
  | none | sleep u => trivial
  | idle u => simp only [hh] at h ⊢; exact h.1
  | block u => simp only [hh] at h ⊢; exact ⟨h.1, .inr h.2⟩

theorem State.Inv.beforeSettle {s : State} (h : s.Inv) : s.InvBeforeSettle :=
  { h with pulse := fun ha => (h.pulse ha).2, hold := h.hold.sound }

theorem State.InvBeforeSettle.inv {s : State} (h : s.InvBeforeSettle)
    (hpulse : s.active = true → s.now < s.deadline) (hhold : s.HoldPending) : s.Inv :=
  { h with pulse := fun ha => ⟨hpulse ha, h.pulse ha⟩, hold := hhold }

/-- A hold that `Settle` does not lift is pending. -/
theorem State.HoldSound.pending {s : State} (h : s.HoldSound) (hdue : ¬ s.HoldDue) : s.HoldPending := by
  unfold State.HoldSound at h
  unfold State.HoldDue at hdue
  unfold State.HoldPending
  cases hh : s.hold with
  | none => trivial
  | sleep u => simp only [hh] at hdue ⊢; omega
  | idle u =>
    simp only [hh, not_or] at h hdue ⊢
    exact ⟨h, by omega, hdue.2⟩
  | block u =>
    simp only [hh] at h hdue ⊢
    exact ⟨h.1, h.2.resolve_left hdue⟩

/-- Ending the pulse keeps the invariant when no blocking hold is left. -/
theorem State.InvBeforeSettle.endPulse {s : State} (h : s.InvBeforeSettle)
    (hb : ∀ u, s.hold ≠ .block u) : (endPulse s).InvBeforeSettle := by
  have hhold : (Machine.endPulse s).HoldSound := by
    have hs := h.hold
    unfold State.HoldSound at hs ⊢
    cases hh : s.hold with
    | none | sleep u => simp only [endPulse_hold, hh]
    | idle u => simp only [endPulse_hold, hh] at hs ⊢; exact hs
    | block u => exact absurd hh (hb u)
  exact { h with
    pins := ⟨rfl, rfl⟩, recorded := rfl, halted := fun hh => ⟨(h.halted hh).1, rfl, (h.halted hh).2.2⟩,
    pulse := nofun, hold := hhold }

/-- Lifting a hold keeps the invariant when no blocking pulse is left. -/
theorem State.InvBeforeSettle.release {s : State} (h : s.InvBeforeSettle)
    (hb : s.active = true → s.params.pulseImpl = .deadline) : State.InvBeforeSettle { s with hold := .none } :=
  { h with
    halted := fun hh => ⟨(h.halted hh).1, (h.halted hh).2.1, rfl⟩
    pulse := fun ha => ⟨(h.pulse ha).1, fun hi => by simp [hb ha] at hi⟩
    hold := trivial }

theorem State.InvBeforeSettle.not_block {s : State} (h : s.InvBeforeSettle)
    (hi : s.params.pulseImpl = .deadline) (u : Nat) : s.hold ≠ .block u := by
  intro hh
  have hs := h.hold
  rw [State.HoldSound, hh] at hs
  simp [hi] at hs

theorem State.InvBeforeSettle.settleClear {s : State} (h : s.InvBeforeSettle) :
    (settleClear s).InvBeforeSettle ∧ ¬ (settleClear s).ClearDue := by
  by_cases hc : s.ClearDue
  · rw [settleClear_of_due hc]
    exact ⟨h.endPulse (h.not_block hc.1), fun ⟨_, ha, _⟩ => by simp at ha⟩
  · rw [settleClear_of_not_due hc]
    exact ⟨h, hc⟩

/-- Ending the pulse and lifting the hold together restores the whole invariant. -/
theorem State.InvBeforeSettle.endBlock {s : State} (h : s.InvBeforeSettle) :
    State.Inv { Machine.endPulse s with hold := .none } :=
  { h with
    pins := ⟨rfl, rfl⟩, recorded := rfl, halted := fun hh => ⟨(h.halted hh).1, rfl, rfl⟩, pulse := nofun,
    hold := trivial }

/-- With no clear due, a lit indicator's deadline lies ahead unless a blocking pulse is over. -/
theorem State.InvBeforeSettle.now_lt_deadline {s : State} (h : s.InvBeforeSettle) (hc : ¬ s.ClearDue)
    (hb : ∀ u, s.hold = .block u → s.now < u) (ha : s.active = true) : s.now < s.deadline := by
  obtain ⟨-, hblock⟩ := h.pulse ha
  cases hi : s.params.pulseImpl with
  | deadline => exact not_le.mp fun hd => hc ⟨hi, ha, hd⟩
  | blocking => exact hb _ (hblock hi)

theorem State.InvBeforeSettle.settleHold {s : State} (h : s.InvBeforeSettle) (hc : ¬ s.ClearDue) :
    (settleHold s).Inv := by
  by_cases hover : ∃ u, s.hold = .block u ∧ u ≤ s.now
  · obtain ⟨u, hh, hu⟩ := hover
    rw [settleHold_of_block hh hu]
    exact h.endBlock
  · have hahead : ∀ u, s.hold = .block u → s.now < u := fun u hh => not_le.mp fun hu => hover ⟨u, hh, hu⟩
    have hlit := h.now_lt_deadline hc hahead
    by_cases hdue : s.HoldDue
    · have hnb : ∀ u, s.hold ≠ .block u := fun u hh => by
        rw [State.HoldDue, hh] at hdue
        exact hover ⟨u, hh, hdue⟩
      rw [settleHold_of_wait hdue hnb]
      refine (h.release fun ha => ?_).inv hlit trivial
      cases hi : s.params.pulseImpl with
      | deadline => rfl
      | blocking => exact absurd ((h.pulse ha).2 hi) (hnb _)
    · rw [settleHold_of_not_due hdue]
      exact h.inv hlit (h.hold.pending hdue)

/-- `Settle` restores the invariant (R142, R147). -/
theorem State.InvBeforeSettle.settle {s : State} (h : s.InvBeforeSettle) : (settle s).Inv :=
  h.settleClear.1.settleHold h.settleClear.2

/-! ### The invariant through a command -/

theorem State.Inv.busFrame {s u : State} (h : s.Inv) (hf : BusFrame s u) : u.Inv := by
  rw [hf.only]
  exact { h with memory := hf.wf h.memory, recorded := hf.pins.trans h.recorded }

/-- The events to come are no part of the invariant. -/
theorem State.Inv.withInbox {s : State} (h : s.Inv) (l : List Event) : State.Inv { s with inbox := l } := { h with }

/-- A response has its layout (R98). -/
theorem State.InvBeforeSettle.respond {s : State} (h : s.InvBeforeSettle) {st : Status} {d : RespData}
    (hd : st ≠ .ok → d = 0#48) (fault : Bool) :
    State.InvBeforeSettle (respond st d { s with busFault := fault }) :=
  { h with resp := ⟨st, d, rfl, hd⟩ }

/-- Under the blocking implementation no indicator is lit while a command other than SHUTDOWN is accepted. -/
theorem State.Inv.deadline_of_active {s : State} (h : s.Inv) (hh : s.hold = .none) (ha : s.active = true) :
    s.params.pulseImpl = .deadline := by
  cases hi : s.params.pulseImpl with
  | deadline => rfl
  | blocking => simp [(h.pulse ha).2.2 hi] at hh

/-- A trigger of the main context keeps the invariant up to `Settle` (R141). -/
theorem State.Inv.pulseTrigger_main {s : State} (h : s.Inv) (hrun : s.halted = false) (hh : s.hold = .none) :
    (pulseTrigger .main s).InvBeforeSettle := by
  rw [Machine.pulseTrigger_main]
  refine ⟨h.params, h.memory, h.resp, ⟨rfl, rfl⟩, rfl, h.attached, h.irqFlag, fun hhalt => ?_, fun _ => ?_, ?_⟩
  · simp [hrun] at hhalt
  · exact ⟨le_rfl, fun hi => by simp at hi ⊢; simp [hi]⟩
  · cases hi : s.params.pulseImpl <;> simp [State.HoldSound, hi, hh]

/-- Setting a hold while none is set keeps the invariant up to `Settle`. -/
theorem State.Inv.withHold {s : State} (h : s.Inv) (hrun : s.halted = false) (hh : s.hold = .none) {hold : Hold}
    (hs : State.HoldSound { s with hold := hold }) : State.InvBeforeSettle { s with hold := hold } :=
  { h with
    halted := fun hhalt => by simp [hrun] at hhalt
    pulse := fun ha => ⟨(h.pulse ha).2.1, fun hi => by simp [h.deadline_of_active hh ha] at hi⟩
    hold := hs }

/-- The change of an accepted command keeps the invariant up to `Settle`. -/
theorem CmdChange.invBeforeSettle {i : Instr} {s t : State} (hc : CmdChange i s t) (h : s.Inv) (hrun : s.halted = false)
    (hh : s.hold = .none ∨ i = .shutdown) : t.InvBeforeSettle := by
  have hb := h.beforeSettle
  cases hc with
  | keeps => exact hb
  | setfs => exact { hb with }
  | pulse => exact h.pulseTrigger_main hrun (by simpa using hh)
  | sample => exact { hb with }
  | trigger =>
    have hb := h.pulseTrigger_main hrun (by simpa using hh)
    exact { hb with }
  | attach _ hst => exact { hb with attached := fun _ => ⟨hrun, hst⟩, halted := fun hhalt => by simp [hrun] at hhalt }
  | detach => exact { hb with attached := nofun, halted := fun hhalt => by simp [hrun] at hhalt }
  | mainchk => exact { hb with irqFlag := nofun }
  | idle _ hst => exact h.withHold hrun (by simpa using hh) hst
  | sleep => exact h.withHold hrun (by simpa using hh) trivial
  | shutdown =>
    exact { hb with
      pins := ⟨rfl, rfl⟩, recorded := rfl, attached := nofun, halted := fun _ => ⟨rfl, rfl, rfl⟩, pulse := nofun,
      hold := trivial }

theorem State.Inv.exec {i : Instr} {s t : State} (h : s.Inv) (hrun : s.halted = false)
    (hh : s.hold = .none ∨ i = .shutdown) (hx : exec i s = .next t) : t.InvBeforeSettle := by
  obtain ⟨u, v, st, d, failed, hf, hc, hd, rfl⟩ := exec_next hx
  have hv := hc.invBeforeSettle (h.busFrame hf) (hf.halted.trans hrun) (hh.imp_left hf.hold.trans)
  exact hv.respond hd _

/-- Only SHUTDOWN has its opcode (R89). -/
theorem eq_shutdown_of_opcode {w : Word} {i : Instr} (hd : decode w = .ok i) (ho : opcodeOf w = 0x3F#8) :
    i = .shutdown := by
  rw [← encodeDecodeRoundTrip w i hd, opcodeOf_encode] at ho
  cases i <;> simp_all [Instr.opcode]

theorem State.Inv.presentCommand {w : Word} {s t : State} (h : s.Inv) (hp : presentCommand w s = .next t) : t.Inv := by
  obtain ⟨-, rfl⟩ | ⟨-, e, -, rfl⟩ | ⟨hacc, i, u, hd, hx, rfl⟩ := presentCommand_next hp
  · exact h
  · exact (h.beforeSettle.respond (fun _ => rfl) s.busFault).settle
  · obtain ⟨hrun, hh⟩ := accepts_eq_true_iff.mp hacc
    exact (h.exec hrun (hh.imp_right (eq_shutdown_of_opcode hd)) hx).settle

end Sys2Proof.Machine

namespace Sys2Proof.Machine

/-! ### What `Settle` leaves alone (R142) -/

section
variable (s : State)

@[simp] theorem settle_params : (settle s).params = s.params := by rw [settle_only]
@[simp] theorem settle_deadline : (settle s).deadline = s.deadline := by rw [settle_only]
@[simp] theorem settle_busFault : (settle s).busFault = s.busFault := by rw [settle_only]
@[simp] theorem settle_now : (settle s).now = s.now := by rw [settle_only]
@[simp] theorem settle_reg : (settle s).reg = s.reg := by rw [settle_only]
@[simp] theorem settle_inbox : (settle s).inbox = s.inbox := by rw [settle_only]

end

/-- Nothing is due in a dark state with no hold. -/
theorem settle_of_dark {s : State} (ha : s.active = false) (hh : s.hold = .none) : settle s = s := by
  have hc : ¬ s.ClearDue := fun ⟨_, h, _⟩ => by simp [ha] at h
  have hd : ¬ s.HoldDue := by rw [State.HoldDue, hh]; exact id
  rw [settle, settleClear_of_not_due hc, settleHold_of_not_due hd]

/-! ### What an event can do -/

/-- A read can change `WK_SRC` only (R66). -/
theorem memRead_regs {a : Byte} {n : Nat} {s : State} (hm : Memory.wf s.reg = true) :
    (memRead a n s).Ends (RegsUnchangedOutside [s.params.aWkSrc] s) := by
  have hclear (u : State) (hp : u.params = s.params) (hr : u.reg = s.reg) :
      RegsUnchangedOutside [s.params.aWkSrc] s u.clearWake := fun b hb => by
    have hne : ¬ s.params.aWkSrc.toNat = b.toNat := fun h => hb (by simp [BitVec.eq_of_toNat_eq h])
    simp only [State.regAt, clearWake_reg, hr, hp, Memory.read_write hm, if_neg hne]
  by_cases hn : a.toNat + n ≤ 256
  · obtain h | h := s.busOutcome_cases
    · rw [memRead_of_ok hn h]
      simp only [BusRes.Ends]
      split
      · exact hclear _ rfl rfl
      · exact fun _ _ => rfl
    · rw [memRead_of_fail hn h]
      simp only [BusRes.Ends]
      split
      · exact hclear _ rfl rfl
      · exact fun _ _ => rfl
  · rw [memRead, if_pos (by omega)]; trivial

theorem readByte_regs {a : Byte} {s : State} (hm : Memory.wf s.reg = true) :
    (readByte a s).Ends (RegsUnchangedOutside [s.params.aWkSrc] s) := by
  have h := memRead_regs (a := a) (n := 1) hm
  unfold readByte
  cases hr : memRead a 1 s <;> rw [hr] at h <;> exact h

/-- What taking the interrupt did: the handler's one read, then its body or its error, then `Settle` (R174 to R178). -/
theorem takeInterrupt_next {s t : State} (h : takeInterrupt s = .next t) :
    ∃ u, BusFrame s u ∧ (Memory.wf s.reg = true → RegsUnchangedOutside [s.params.aWkSrc] s u) ∧
      ((∃ v, t = settle (handlerBody v u)) ∨ t = settle (handlerBusError u)) := by
  have hf := readByte_frame s.params.aWkSrc s
  have hregs := readByte_regs (a := s.params.aWkSrc) (s := s)
  cases hr : readByte s.params.aWkSrc s with
  | ok v u =>
    rw [hr] at hf hregs
    rw [takeInterrupt_of_ok hr] at h
    cases h
    exact ⟨u, hf, hregs, .inl ⟨v, rfl⟩⟩
  | err u =>
    rw [hr] at hf hregs
    rw [takeInterrupt_of_err hr] at h
    cases h
    exact ⟨u, hf, hregs, .inr rfl⟩
  | stop f => rw [takeInterrupt, hr] at h; cases h

/-- What an edge of the interrupt line did (R41, R174). -/
theorem intRise_next {s t : State} (h : intRise s = .next t) :
    (s.attached = false ∧ t = s) ∨ (s.attached = true ∧ takeInterrupt s = .next t) := by
  cases hr : s.routed with
  | false => rw [intRise_of_unrouted hr] at h; cases h
  | true =>
    cases ha : s.attached with
    | false => rw [intRise_of_detached hr ha] at h; cases h; exact .inl ⟨rfl, rfl⟩
    | true => rw [intRise_of_attached hr ha] at h; exact .inr ⟨rfl, h⟩

/-- What a change of a sensor register did (R41). -/
theorem sensorWrite_next {a v : Byte} {s t : State} (h : sensorWrite a v s = .next t) :
    isConfigOffset s.params a = false ∧ t = s.setReg a v := by
  cases ha : isConfigOffset s.params a with
  | true => rw [sensorWrite_of_config ha] at h; cases h
  | false => rw [sensorWrite_of_volatile ha] at h; cases h; exact ⟨rfl, rfl⟩

/-! ### What the handler's body leaves alone (R176) -/

@[simp] theorem handlerBody_busFault (v : Byte) (s : State) : (handlerBody v s).busFault = s.busFault := by
  cases hx : v.getLsbD s.params.bXWu.val with
  | false => rw [handlerBody_of_x_clear hx]
  | true =>
    cases h : s.params.pulseImpl with
    | deadline => rw [handlerBody_of_deadline hx h]
    | blocking => rw [handlerBody_of_blocking hx h]

/-- The handler's body takes no time but a blocking pulse's (R33, R141). -/
theorem handlerBody_now (v : Byte) (s : State) :
    (handlerBody v s).now = s.now ∨
      (s.params.pulseImpl = .blocking ∧ (handlerBody v s).now = s.now + s.params.durationMs) := by
  cases hx : v.getLsbD s.params.bXWu.val with
  | false => rw [handlerBody_of_x_clear hx]; exact .inl rfl
  | true =>
    cases h : s.params.pulseImpl with
    | deadline => rw [handlerBody_of_deadline hx h]; exact .inl rfl
    | blocking => rw [handlerBody_of_blocking hx h]; exact .inr ⟨rfl, rfl⟩

/-- A command that completed set the sticky flag or left it alone (R167). -/
theorem CmdAnswer.busFault {i : Instr} {s t : State} (h : CmdAnswer i s t) (hs : s.busFault = true) :
    t.busFault = true := by
  obtain ⟨u, v, st, d, failed, hf, hc, -, rfl⟩ := h
  have hv : v.busFault = u.busFault := by cases hc <;> simp [pulseTrigger_main]
  simp [hv, hf.busFault, hs]

theorem presentCommand_busFault {w : Word} {s t : State} (h : presentCommand w s = .next t)
    (hs : s.busFault = true) : t.busFault = true := by
  obtain ⟨-, rfl⟩ | ⟨-, e, -, rfl⟩ | ⟨-, i, u, -, hx, rfl⟩ := presentCommand_next h
  · exact hs
  · simpa using hs
  · simpa using (exec_next hx).busFault hs

theorem takeInterrupt_busFault {s t : State} (h : takeInterrupt s = .next t) (hs : s.busFault = true) :
    t.busFault = true := by
  obtain ⟨u, hf, -, ⟨v, rfl⟩ | rfl⟩ := takeInterrupt_next h
  · simpa [hf.busFault] using hs
  · simp

/-- Settles O48, event by event. -/
theorem busFaultIsSticky : Obligations.BusFaultIsSticky := by
  intro s t hs hreset h
  obtain ⟨-, rfl⟩ | ⟨e, rest, hi, -, h⟩ := step_next h
  · exact hs
  · cases e with
    | cmd w => exact presentCommand_busFault h hs
    | tick => cases h; simpa [tick] using hs
    | intRise =>
      obtain ⟨-, rfl⟩ | ⟨-, h⟩ := intRise_next h
      · exact hs
      · exact takeInterrupt_busFault h hs
    | sensorWrite a v => obtain ⟨-, rfl⟩ := sensorWrite_next h; exact hs
    | reset => exact absurd hi (hreset rest)
    | busFail => cases h; exact hs

/-! ### Configuration registers (R63) -/

theorem isConfigOffset_iff {p : Params} {a : Byte} : isConfigOffset p a = true ↔ ∃ r ∈ configRegs p, r.1 = a := by
  simp [isConfigOffset]

/-- The constraints on a deployment, one by one (R9, R10). -/
theorem admissible_iff {p : Params} :
    p.admissible = true ↔ p.offsetsOk = true ∧ p.sharingOk = true ∧ p.modeFieldsOk = true ∧ p.wakeFieldsOk = true ∧
      p.bitsOk = true ∧ p.codesOk = true ∧ p.timerOk = true := by
  simp only [Params.admissible, Bool.and_eq_true, and_assoc]

/-- No configuration register lies at a volatile offset (R10(a)). -/
theorem not_volatile_of_config {p : Params} (hp : p.admissible = true) {a : Byte} (ha : isConfigOffset p a = true) :
    isVolatileNamed p a = false := by
  obtain ⟨hoff, -⟩ := admissible_iff.mp hp
  simp only [Params.offsetsOk, Bool.and_eq_true] at hoff
  obtain ⟨-, hall⟩ := hoff
  obtain ⟨r, hr, rfl⟩ := isConfigOffset_iff.mp ha
  simpa using List.all_eq_true.mp hall r hr

theorem ne_wkSrc_of_config {p : Params} (hp : p.admissible = true) {a : Byte} (ha : isConfigOffset p a = true) :
    a ≠ p.aWkSrc := by
  rintro rfl
  simpa [isVolatileNamed] using not_volatile_of_config hp ha

/-- Settles O49: only the handler's read and the sensor write registers, and neither reaches a configuration one. -/
theorem onlyCommandsChangeConfigRegisters : Obligations.OnlyCommandsChangeConfigRegisters := by
  intro s t a hm hcmd h ha
  obtain ⟨-, rfl⟩ | ⟨e, rest, hi, hp, h⟩ := step_next h
  · rfl
  · cases e with
    | cmd w => exact absurd hi (hcmd w rest)
    | tick => cases h; simp [State.regAt, tick]
    | intRise =>
      obtain ⟨-, rfl⟩ | ⟨-, h⟩ := intRise_next h
      · rfl
      · obtain ⟨u, -, hregs, ht⟩ := takeInterrupt_next h
        have hu : u.regAt a = s.regAt a := hregs hm a (by simpa using ne_wkSrc_of_config hp ha)
        obtain ⟨v, rfl⟩ | rfl := ht
        · simpa [State.regAt, handlerBody_reg] using hu
        · simpa [State.regAt] using hu
    | sensorWrite b v =>
      obtain ⟨hb, rfl⟩ := sensorWrite_next h
      refine (setReg_regAt (s := { s with inbox := rest }) hm b v a).trans (if_neg ?_)
      rintro rfl
      exact Bool.false_ne_true (hb.symm.trans ha)
    | reset | busFail => cases h; rfl

/-! ### Time (R33) -/

theorem CmdAnswer.now {i : Instr} {s t : State} (h : CmdAnswer i s t) : t.now = s.now := by
  obtain ⟨u, v, st, d, failed, hf, hc, -, rfl⟩ := h
  have hv : v.now = u.now := by cases hc <;> simp [pulseTrigger_main]
  exact hv.trans hf.now

theorem presentCommand_now {w : Word} {s t : State} (h : presentCommand w s = .next t) : t.now = s.now := by
  obtain ⟨-, rfl⟩ | ⟨-, e, -, rfl⟩ | ⟨-, i, u, -, hx, rfl⟩ := presentCommand_next h
  · rfl
  · simp
  · rw [settle_now, (exec_next hx).now]

theorem takeInterrupt_now {s t : State} (h : takeInterrupt s = .next t) :
    t.now = s.now ∨ (s.params.pulseImpl = .blocking ∧ t.now = s.now + s.params.durationMs) := by
  obtain ⟨u, hf, -, ⟨v, rfl⟩ | rfl⟩ := takeInterrupt_next h
  · simpa only [settle_now, hf.now, hf.params] using handlerBody_now v u
  · exact .inl (by simp [hf.now])

/-- Settles O50, event by event. -/
theorem timeAdvancesOnlyByTickAndHandler : Obligations.TimeAdvancesOnlyByTickAndHandler := by
  intro s t h
  obtain ⟨-, rfl⟩ | ⟨e, rest, hi, -, h⟩ := step_next h
  · exact .inl rfl
  · cases e with
    | cmd w => exact .inl (presentCommand_now (s := { s with inbox := rest }) h)
    | tick => cases h; exact .inr (.inl ⟨by simp [tick], rest, hi⟩)
    | intRise =>
      obtain ⟨-, rfl⟩ | ⟨ha, h⟩ := intRise_next h
      · exact .inl rfl
      · obtain hnow | ⟨himpl, hnow⟩ := takeInterrupt_now h
        · exact .inl hnow
        · exact .inr (.inr ⟨hnow, himpl, ha, rest, hi⟩)
    | sensorWrite a v => obtain ⟨-, rfl⟩ := sensorWrite_next h; exact .inl rfl
    | reset | busFail => cases h; exact .inl rfl

/-! ### After a shutdown (R30, R201) -/

/-- Settles O51: a halted block accepts no command and takes no interrupt, and `Settle` finds nothing to do. -/
theorem haltedUntilReset : Obligations.HaltedUntilReset := by
  intro s t hinv hhalt hreset h
  obtain ⟨hatt, hact, hhold⟩ := hinv.halted hhalt
  have hpins : s.PinsAt .inactive := by simpa [State.pinKind, hact] using hinv.pins
  suffices ht : t = { s with inbox := s.inbox.tail, now := t.now, reg := t.reg, busPlan := t.busPlan } by
    refine ⟨ht, ?_⟩
    rw [ht]
    exact ⟨hpins, hatt, hhold⟩
  obtain ⟨hi, rfl⟩ | ⟨e, rest, hi, -, h⟩ := step_next h
  · rw [hi, List.tail_nil, ← hi]
  · rw [hi, List.tail_cons]
    cases e with
    | cmd w =>
      have hacc : State.accepts { s with inbox := rest } w = false := by simp [State.accepts, hhalt]
      cases (presentCommand_of_stalled hacc).symm.trans h
      rfl
    | tick =>
      have htick : settle { s with inbox := rest, now := s.now + 1 } = { s with inbox := rest, now := s.now + 1 } :=
        settle_of_dark hact hhold
      cases (congrArg Host.Outcome.next htick).symm.trans h
      rfl
    | intRise =>
      obtain ⟨-, rfl⟩ | ⟨ha, -⟩ := intRise_next h
      · rfl
      · exact absurd (hatt.symm.trans ha) Bool.false_ne_true
    | sensorWrite a v => obtain ⟨-, rfl⟩ := sensorWrite_next h; rfl
    | reset => exact absurd hi (hreset rest)
    | busFail => cases h; rfl

/-! ### The invariant through an event -/

/-- The handler's body keeps the invariant up to `Settle`: a lit pulse is one duration long, a blocking one is over, and
a blocking hold of the main context has then come to its time (R141, R176). -/
theorem State.Inv.handlerBody {s : State} (h : s.Inv) (hatt : s.attached = true) (v : Byte) :
    (handlerBody v s).InvBeforeSettle := by
  have hb := h.beforeSettle
  obtain ⟨hrun, hst⟩ := h.attached hatt
  have hnhalt : ∀ {P : Prop}, s.halted = true → P := fun hhalt => by simp [hrun] at hhalt
  cases hx : v.getLsbD s.params.bXWu.val with
  | false => rw [handlerBody_of_x_clear hx]; exact { hb with irqFlag := fun _ => hst }
  | true =>
    cases hi : s.params.pulseImpl with
    | deadline =>
      rw [handlerBody_of_deadline hx hi]
      refine { hb with
        pins := ⟨rfl, rfl⟩, recorded := rfl, irqFlag := fun _ => hst, halted := fun hh => hnhalt hh,
        pulse := fun _ => ⟨le_rfl, fun hi' => by simp [hi] at hi'⟩, hold := ?_ }
      have hs := hb.hold
      unfold State.HoldSound at hs ⊢
      cases hh : s.hold with
      | none | sleep u => trivial
      | idle u => exact hst
      | block u => exact absurd hh (hb.not_block hi u)
    | blocking =>
      rw [handlerBody_of_blocking hx hi]
      refine { hb with
        pins := ⟨rfl, rfl⟩, recorded := rfl, irqFlag := fun _ => hst, halted := fun hh => hnhalt hh,
        pulse := nofun, hold := ?_ }
      have hs := h.hold
      unfold State.HoldPending at hs
      unfold State.HoldSound
      cases hh : s.hold with
      | none | sleep u => trivial
      | idle u => exact hst
      | block u =>
        simp only [hh] at hs ⊢
        obtain ⟨-, hact, rfl⟩ := hs
        exact ⟨hi, .inl (h.pulse hact).2.1⟩

theorem State.Inv.takeInterrupt {s t : State} (h : s.Inv) (hatt : s.attached = true)
    (hx : takeInterrupt s = .next t) : t.Inv := by
  obtain ⟨u, hf, -, ⟨v, rfl⟩ | rfl⟩ := takeInterrupt_next hx
  · exact ((h.busFrame hf).handlerBody (hf.attached.trans hatt) v).settle
  · have hst : u.params.strategy = .interrupt := hf.params ▸ (h.attached hatt).2
    have hb := (h.busFrame hf).beforeSettle
    exact State.InvBeforeSettle.settle { hb with irqFlag := fun _ => hst }

theorem State.Inv.tick {s : State} (h : s.Inv) : (tick s).Inv := by
  have hb := h.beforeSettle
  refine State.InvBeforeSettle.settle
    { hb with pulse := fun ha => ⟨(hb.pulse ha).1.trans (by simp), (hb.pulse ha).2⟩, hold := ?_ }
  have hs := hb.hold
  unfold State.HoldSound at hs ⊢
  cases hh : s.hold with
  | none | sleep u => trivial
  | idle u => simp only [hh] at hs ⊢; exact hs
  | block u => simp only [hh] at hs ⊢; exact hs.imp_right (Or.imp_left (Nat.le_succ_of_le ·))

/-- A dark state with nothing under way meets the invariant. -/
theorem State.inv_of_dark {s : State} (hp : s.params.admissible = true) (hm : Memory.wf s.reg = true)
    (hresp : s.resp = 0#64) (hpins : s.PinsAt .inactive) (hrec : lastPins s.trace = some .inactive)
    (hact : s.active = false) (hirq : s.irqFlag = false) (hatt : s.attached = false) (hhold : s.hold = .none) :
    s.Inv where
  params := hp
  memory := hm
  resp := ⟨.ok, 0#48, hresp, fun _ => rfl⟩
  pins := by simpa [State.pinKind, hact] using hpins
  recorded := by simpa [State.pinKind, hact] using hrec
  attached h := by simp [hatt] at h
  irqFlag h := by simp [hirq] at h
  halted _ := ⟨hatt, hact, hhold⟩
  pulse h := by simp [hact] at h
  hold := by rw [State.HoldPending, hhold]; trivial

/-- Settles O52, event by event. -/
theorem stepKeepsInvariant : Obligations.StepKeepsInvariant := by
  intro s t h hx
  obtain ⟨-, rfl⟩ | ⟨e, rest, -, -, hx⟩ := step_next hx
  · exact h
  · replace h := h.withInbox rest
    cases e with
    | cmd w => exact h.presentCommand hx
    | tick => cases hx; exact h.tick
    | intRise =>
      obtain ⟨-, rfl⟩ | ⟨hatt, hx⟩ := intRise_next hx
      · exact h
      · exact h.takeInterrupt hatt hx
    | sensorWrite a v => obtain ⟨-, rfl⟩ := sensorWrite_next hx; exact { h with memory := Memory.wf_write h.memory a v }
    | reset => cases hx; exact State.inv_of_dark h.params h.memory rfl ⟨rfl, rfl⟩ rfl rfl rfl rfl rfl
    | busFail => cases hx; exact { h with }

/-- Settles O53: a state right after reset is dark, and nothing is under way. -/
theorem invariantAtPowerOn : Obligations.InvariantAtPowerOn := by
  have hon (p : Params) (now : Nat) (m : Memory) (hp : p.admissible = true) (hm : Memory.wf m = true) :
      (State.powerOn p now m).Inv := State.inv_of_dark hp hm rfl ⟨rfl, rfl⟩ rfl rfl rfl rfl rfl
  exact ⟨hon, hon Params.default 0 [] (by decide) rfl⟩

/-- Settles O54: every value is the one `powerOn` writes. -/
theorem resetStateValues : Obligations.ResetStateValues := by
  intro p now m s
  exact ⟨rfl, rfl, rfl, rfl, rfl, rfl, rfl, rfl, rfl, rfl, rfl, rfl, rfl, rfl⟩

/-! ### Ticks (R31, R146, R147) -/

/-- The run of a state whose inbox begins with a tick. -/
theorem run_tick {s : State} {k : Nat} {rest : List Event} (hp : s.params.admissible = true)
    (hi : s.inbox = .tick :: rest) : core.run (k + 1) s = core.run k (tick { s with inbox := rest }) := by
  have hs : core.step s = .next (tick { s with inbox := rest }) := step_of_inbox hp hi
  simp only [Host.Core.run, hs]

/-- The state waits until `u` (R31). -/
def State.WaitsUntil (s : State) (u : Nat) : Prop := s.hold = .sleep u ∨ s.hold = .idle u ∨ s.hold = .block u

/-- The time of a hold lies ahead (R31). -/
theorem State.Inv.now_lt_of_waitsUntil {s : State} (h : s.Inv) {u : Nat} (hu : s.WaitsUntil u) : s.now < u := by
  have hpend := h.hold
  obtain hu | hu | hu := hu <;> rw [State.HoldPending, hu] at hpend
  · exact hpend
  · exact hpend.2.1
  · obtain ⟨-, hact, rfl⟩ := hpend
    exact (h.pulse hact).1

/-- As time passes, a hold is due exactly from its time on (R31, R142). -/
theorem State.HoldPending.due_iff {s : State} (h : s.HoldPending) {u n : Nat} (hu : s.WaitsUntil u) (l : List Event) :
    State.HoldDue { s with inbox := l, now := n } ↔ u ≤ n := by
  unfold State.HoldDue
  obtain hu | hu | hu := hu <;> rw [State.HoldPending, hu] at h <;> simp only [hu]
  exact or_iff_left h.2.2

/-- Settles O36: before its time the hold stays pending from tick to tick, and at its time `Settle` lifts it. -/
theorem everyHoldIsLiftedByTicks : Obligations.EveryHoldIsLiftedByTicks := by
  intro s u k
  induction k generalizing s with
  | zero =>
    intro hinv hu hk hi
    exact ⟨s, rfl, rfl, (if_pos (hinv.now_lt_of_waitsUntil hu)).symm⟩
  | succ k ih =>
    intro hinv hu hk hi
    rw [run_tick hinv.params hi]
    have hdue := hinv.hold.due_iff (n := s.now + 1) hu (List.replicate k .tick)
    by_cases hlast : u ≤ s.now + 1
    · obtain rfl : k = 0 := by omega
      exact ⟨_, rfl, settle_now _, by rw [if_neg (by omega)]; exact settle_hold_of_due (hdue.mpr hlast)⟩
    · have hkept : (tick { s with inbox := List.replicate k .tick }).hold = s.hold :=
        settle_hold_of_not_due (mt hdue.mp hlast)
      have hnow : (tick { s with inbox := List.replicate k .tick }).now = s.now + 1 := settle_now _
      obtain ⟨t, hrun, htnow, hthold⟩ := ih _ (hinv.withInbox (List.replicate k .tick)).tick (by rwa [hkept])
        (by omega) (settle_inbox _)
      rw [hnow, Nat.add_right_comm] at htnow hthold
      exact ⟨t, hrun, htnow, by rw [hthold, hkept]; rfl⟩

/-- A lit indicator at a tick (R142, R146): `Settle` ends the pulse exactly at the deadline, by the deferred clear or by
lifting the blocking hold, and writes the pins once. -/
theorem State.Inv.tick_of_active {s : State} (h : s.Inv) (ha : s.active = true) (l : List Event)
    (hle : s.now + 1 ≤ s.deadline) :
    (Machine.tick { s with inbox := l }).active = decide (s.now + 1 < s.deadline) ∧
      (Machine.tick { s with inbox := l }).trace =
        (if s.now + 1 < s.deadline then [] else [.pins s.deadline .inactive]) ++ s.trace := by
  obtain ⟨lift, hlift⟩ : ∃ b : Bool, b = true ↔ State.HoldDue { s with inbox := l, now := s.now + 1 } := by
    classical exact ⟨decide _, decide_eq_true_iff⟩
  have hblock (hi : s.params.pulseImpl = .blocking) : s.hold = .block s.deadline := (h.pulse ha).2.2 hi
  have hnoblock (hi : s.params.pulseImpl = .deadline) (u : Nat) : s.hold ≠ .block u := h.beforeSettle.not_block hi u
  rw [Machine.tick]
  obtain hlt | heq := hle.lt_or_eq
  · rw [settle_eq (clear := false) (ended := false) ?_ ?_ hlift]
    · simp [ha, hlt]
    · simp [State.ClearDue, hlt]
    · cases hi : s.params.pulseImpl with
      | deadline => simp [hnoblock hi]
      | blocking => simp [hblock hi, hlt]
  · cases hi : s.params.pulseImpl with
    | deadline =>
      rw [settle_eq (clear := true) (ended := false) ?_ ?_ hlift]
      · simp [heq]
      · simp [State.ClearDue, hi, ha, heq]
      · simp [hnoblock hi]
    | blocking =>
      rw [settle_eq (clear := false) (ended := true) ?_ ?_ hlift]
      · simp [heq]
      · simp [State.ClearDue, hi]
      · simp [hblock hi, heq]

/-- Settles O35: before the deadline a tick leaves the pulse alone, and the tick that reaches it ends it. -/
theorem pulseEndsExactlyAtTheDeadline : Obligations.PulseEndsExactlyAtTheDeadline := by
  intro s k
  induction k generalizing s with
  | zero =>
    intro hinv ha hk hi
    have hlt : s.now + 0 < s.deadline := (hinv.pulse ha).1
    exact ⟨s, rfl, rfl, by rw [ha, decide_eq_true hlt], hinv.pins, by rw [if_pos hlt]; rfl⟩
  | succ k ih =>
    intro hinv ha hk hi
    rw [run_tick hinv.params hi]
    obtain ⟨hact, htrace⟩ := hinv.tick_of_active ha (List.replicate k .tick) (by omega)
    have htick := (hinv.withInbox (List.replicate k .tick)).tick
    have hnow : (tick { s with inbox := List.replicate k .tick }).now = s.now + 1 := settle_now _
    have hdead : (tick { s with inbox := List.replicate k .tick }).deadline = s.deadline := settle_deadline _
    by_cases hlt : s.now + 1 < s.deadline
    · rw [decide_eq_true hlt] at hact
      rw [if_pos hlt, List.nil_append] at htrace
      obtain ⟨t, hrun, htnow, htact, htpins, httrace⟩ := ih _ htick hact (by omega) (settle_inbox _)
      rw [hnow, Nat.add_right_comm] at htnow htact httrace
      rw [hdead] at htact httrace
      rw [htrace] at httrace
      exact ⟨t, hrun, htnow, htact, htpins, httrace⟩
    · obtain rfl : k = 0 := by omega
      exact ⟨_, rfl, hnow, hact, htick.pins, htrace⟩

end Sys2Proof.Machine

namespace Sys2Proof.Machine

/-! ### Commands without a bus transaction (R143, R145, R155, R156, R158) -/

theorem requireStrategy_of_eq {st : Strategy} {s : State} (h : s.params.strategy = st) (body : Result) :
    requireStrategy st s body = body := if_pos h

/-- Settles O31: one trigger of the main context, then the response. -/
theorem pulseStartsOneDuration : Obligations.PulseStartsOneDuration := by
  intro s
  simp only [exec, execPulse, pulseTrigger_main]
  rfl

/-- Settles O33: the meaning is the one update. -/
theorem sleepHoldsTheMainContext : Obligations.SleepHoldsTheMainContext := by
  intro ms s
  rfl

/-- A command of interrupt control is illegal under the polling strategy (R92). -/
theorem requireInterrupt_of_polling {s : State} (h : s.params.strategy = .polling) (body : Result) :
    requireStrategy .interrupt s body = .next { s with resp := 0x0200000000000000#64 } := by
  rw [requireStrategy_of_ne (by simp [h]), illegal_eq]

/-- Settles O37: one flag under the interrupt strategy, ILLEGAL_CMD under the other. -/
theorem attachAndDetachSetOneFlag : Obligations.AttachAndDetachSetOneFlag := by
  intro s
  exact ⟨fun h => ⟨requireStrategy_of_eq h _, requireStrategy_of_eq h _⟩,
    fun h => ⟨requireInterrupt_of_polling h _, requireInterrupt_of_polling h _⟩⟩

/-- Settles O39: the hold under the interrupt strategy, ILLEGAL_CMD under the other. -/
theorem idleHoldsUntilTheTimeout : Obligations.IdleHoldsUntilTheTimeout := by
  intro s
  exact ⟨fun h => requireStrategy_of_eq h _, fun h => requireInterrupt_of_polling h _⟩

/-! ### Commands that are one read (R110, R130 to R134) -/

theorem conclude_of_ok {α : Type} {r : BusRes α} {a : α} {t : State} (h : r = .ok a t) (k : α → State → State) :
    r.conclude k = .next (k a t) := by rw [h, BusRes.conclude_ok]

theorem conclude_of_err {α : Type} {r : BusRes α} {t : State} (h : r = .err t) (k : α → State → State) :
    r.conclude k = .next (raiseBusError t) := by rw [h, BusRes.conclude_err]

/-- A command that is one successful read answers what it makes of the bytes (R66). -/
theorem conclude_memRead {a : Byte} {n : Nat} {s : State} (d : List Byte → RespData) (hn : a.toNat + n ≤ 256)
    (hm : Memory.wf s.reg = true) (h : s.BusOk 1) :
    ∃ t, (memRead a n s).conclude (fun b t => respond .ok (d b) t) = .next t ∧ AfterOneRead a n s t ∧
      t.resp = respWord .ok (d (Memory.readBytes s.reg a.toNat n)) := by
  obtain ⟨t, ht, he, -⟩ := memRead_effect hn hm h
  exact ⟨_, conclude_of_ok ht _, he.respond .., rfl⟩

theorem conclude_readByte {a : Byte} {s : State} (d : Byte → RespData) (hm : Memory.wf s.reg = true)
    (h : s.BusOk 1) :
    ∃ t, (readByte a s).conclude (fun v t => respond .ok (d v) t) = .next t ∧ AfterOneRead a 1 s t ∧
      t.resp = respWord .ok (d (s.regAt a)) := by
  obtain ⟨t, ht, he, -⟩ := readByte_effect hm h
  exact ⟨_, conclude_of_ok ht _, he.respond .., rfl⟩

/-- A command whose one read failed answers BUS_ERROR, whatever it was to make of the bytes (R167). -/
theorem conclude_memRead_failed {a : Byte} {n : Nat} {rest : List BusOutcome} {s : State}
    (hn : a.toNat + n ≤ 256) (hm : Memory.wf s.reg = true) (h : s.BusFailsAfter 0 rest)
    (k : List Byte → State → State) : ∃ t, (memRead a n s).conclude k = .next t ∧ AfterFailedRead a n rest s t := by
  obtain ⟨t, ht, he, -⟩ := memRead_failure hn hm h
  exact ⟨_, conclude_of_err ht _, he⟩

theorem conclude_readByte_failed {a : Byte} {rest : List BusOutcome} {s : State} (hm : Memory.wf s.reg = true)
    (h : s.BusFailsAfter 0 rest) (k : Byte → State → State) :
    ∃ t, (readByte a s).conclude k = .next t ∧ AfterFailedRead a 1 rest s t := by
  obtain ⟨t, ht, he, -⟩ := readByte_failure hm h
  exact ⟨_, conclude_of_err ht _, he⟩

/-- An OK response is its data (R22, R98). -/
theorem respWord_ok (d : RespData) : respWord .ok d = d.setWidth 64 := by
  rw [BitVec.setWidth_eq_append (by decide)]; rfl

/-- The same for data narrower than the data field. -/
theorem respWord_ok_setWidth {n : Nat} (h : n ≤ 48) (d : BitVec n) : respWord .ok (d.setWidth 48) = d.setWidth 64 := by
  rw [respWord_ok, BitVec.setWidth_setWidth fun hn => absurd hn.1 h.not_gt]

theorem respWord_boolData (b : Bool) : respWord .ok (boolData b) = if b then 1#64 else 0#64 := by cases b <;> rfl

theorem respWord_sampleData (v : Sample) : respWord .ok (sampleData v) = 0#16 ++ v.z ++ v.y ++ v.x := by
  rw [respWord_ok, sampleData, BitVec.setWidth_eq_append (by decide), BitVec.append_assoc', BitVec.append_assoc']
  rfl

theorem respWord_wakeData (f : WakeFlags) (v : Byte) :
    respWord .ok (wakeData f v) =
      0#52 ++ BitVec.ofBool f.zw ++ BitVec.ofBool f.yw ++ BitVec.ofBool f.xw ++ BitVec.ofBool f.wu ++ v := by
  rw [wakeData, respWord_ok_setWidth (by decide), BitVec.setWidth_eq_append (by decide), BitVec.append_assoc',
    BitVec.append_assoc', BitVec.append_assoc', BitVec.append_assoc']
  rfl

/-- Settles O26: one burst of six bytes, packed by `decodeSample`. -/
theorem rdaccelReturnsTheSample : Obligations.RdaccelReturnsTheSample := by
  intro s hp hm b
  refine ⟨fun hok => ?_, fun rest hfail => conclude_memRead_failed (burst_fits hp) hm hfail _⟩
  obtain ⟨t, hx, he, hresp⟩ := conclude_memRead (sampleData ∘ decodeSample) (burst_fits hp) hm hok
  exact ⟨t, hx, he, hresp.trans (respWord_sampleData _)⟩

/-- Settles O27: one read of the status register, one bit of it. -/
theorem dataReadyTestsOneBit : Obligations.DataReadyTestsOneBit := by
  intro s hm
  have hbit (ready : Byte → Bool) (hok : s.BusOk 1) :=
    conclude_readByte (a := s.params.aStatus) (boolData ∘ ready) hm hok
  simp only [Function.comp_apply, respWord_boolData] at hbit
  exact ⟨fun hok => ⟨hbit xlReady hok, hbit gReady hok⟩, fun rest hfail =>
    ⟨conclude_readByte_failed hm hfail _, conclude_readByte_failed hm hfail _⟩⟩

/-- A successful WKDET: one read of `WK_SRC` and the overall-wake flag of its byte (R133). -/
theorem execWkdet_of_ok {s : State} (hm : Memory.wf s.reg = true) (hok : s.BusOk 1) :
    ∃ t, exec .wkdet s = .next t ∧ AfterOneRead s.params.aWkSrc 1 s t ∧
      t.resp = if (s.regAt s.params.aWkSrc).getLsbD s.params.bWuIa.val then 1#64 else 0#64 := by
  obtain ⟨t, hx, he, hresp⟩ :=
    conclude_readByte (a := s.params.aWkSrc) (fun v => boolData (decodeWake s.params v).wu) hm hok
  exact ⟨t, hx, he, hresp.trans (respWord_boolData _)⟩

/-- Settles O28: one read of `WK_SRC`, successful or failed. -/
theorem wkdetReportsOverallWake : Obligations.WkdetReportsOverallWake := by
  intro s hm
  exact ⟨execWkdet_of_ok hm, fun rest hfail => conclude_readByte_failed hm hfail _⟩

/-- Settles O29: one read of `WK_SRC`, the byte and its four flags. -/
theorem wksrcReportsEverySource : Obligations.WksrcReportsEverySource := by
  intro s hm v
  refine ⟨fun hok => ?_, fun rest hfail => conclude_readByte_failed hm hfail _⟩
  obtain ⟨t, hx, he, hresp⟩ :=
    conclude_readByte (a := s.params.aWkSrc) (fun v => wakeData (decodeWake s.params v) v) hm hok
  exact ⟨t, hx, he, hresp.trans (respWord_wakeData ..)⟩

/-! ### REGRD (R110) -/

/-- The data of a burst, bit by bit. -/
theorem getLsbD_packBytes {b : List Byte} {k : Nat} (hk : k < 48) :
    (packBytes b).getLsbD k = (b.getD (k / 8) 0#8).getLsbD (k % 8) := by
  induction b generalizing k with
  | nil => simp [packBytes]
  | cons x rest ih =>
    simp only [packBytes, BitVec.getLsbD_or, BitVec.getLsbD_shiftLeft, BitVec.getLsbD_setWidth, hk, decide_true,
      Bool.true_and]
    by_cases hlow : k < 8
    · simp [hlow, Nat.div_eq_of_lt hlow, Nat.mod_eq_of_lt hlow]
    · have hdiv : k / 8 = (k - 8) / 8 + 1 := by omega
      have hmod : k % 8 = (k - 8) % 8 := by omega
      rw [ih (by omega), hdiv, hmod, List.getD_cons_succ, BitVec.getLsbD_of_ge x k (by omega)]
      simp [hlow]

/-- Byte `i` of the response is byte `i` of the burst. -/
theorem extractLsb'_respWord_packBytes {b : List Byte} {i : Nat} (hi : i < 6) :
    (respWord .ok (packBytes b)).extractLsb' (8 * i) 8 = b.getD i 0#8 := by
  apply BitVec.eq_of_getLsbD_eq
  intro k hk
  have hdiv : (8 * i + k) / 8 = i := by omega
  have hmod : (8 * i + k) % 8 = k := by omega
  rw [BitVec.getLsbD_extractLsb', respWord_ok, BitVec.getLsbD_setWidth, getLsbD_packBytes (by omega), hdiv, hmod]
  simp [hk]; omega

/-- Above the burst the response is zero. -/
theorem getLsbD_respWord_packBytes {b : List Byte} {k : Nat} (hk : 8 * b.length ≤ k) :
    (respWord .ok (packBytes b)).getLsbD k = false := by
  rw [respWord_ok, BitVec.getLsbD_setWidth]
  by_cases h : k < 48
  · rw [getLsbD_packBytes h, List.getD_eq_default _ _ (by omega)]; simp
  · rw [BitVec.getLsbD_of_ge _ _ (by omega), Bool.and_false]

theorem execRegrd_of_in_range {addr len : Byte} (h1 : 1 ≤ len.toNat) (h6 : len.toNat ≤ 6)
    (hn : addr.toNat + len.toNat ≤ 256) (s : State) :
    execRegrd addr len s = (memRead addr len.toNat s).conclude fun b t => respond .ok (packBytes b) t :=
  if_pos (by simp [regrdInRange, h1, h6, hn])

/-- Settles O17: one burst, or none when the operands are out of range. -/
theorem regrdReturnsTheBytes : Obligations.RegrdReturnsTheBytes := by
  intro addr len s hm
  refine ⟨fun h1 h6 hn hok => ?_, fun hbad => ?_, fun rest h1 h6 hn hfail => ?_⟩
  · obtain ⟨t, hx, he, hresp⟩ := conclude_memRead packBytes hn hm hok
    refine ⟨t, (execRegrd_of_in_range h1 h6 hn s).trans hx, he, fun i hi => ?_, fun k hk => ?_⟩
    · rw [hresp, extractLsb'_respWord_packBytes (by omega), Memory.getD_readBytes _ _ _ _ hi]
    · rw [hresp, getLsbD_respWord_packBytes (by simpa using hk)]
  · exact (execRegrd_of_out_of_range (regrdInRange_eq_false_iff.mpr hbad) s).trans (by rw [badOperand_eq])
  · obtain ⟨t, hx, he⟩ := conclude_memRead_failed hn hm hfail fun b t => respond .ok (packBytes b) t
    exact ⟨t, (execRegrd_of_in_range h1 h6 hn s).trans hx, he⟩

/-! ### One read per wake event (R204) -/

theorem CmdAnswer.params {i : Instr} {s t : State} (h : CmdAnswer i s t) : t.params = s.params := by
  obtain ⟨u, v, st, d, failed, hf, hc, -, rfl⟩ := h
  have hv : v.params = u.params := by cases hc <;> simp [pulseTrigger_main]
  exact hv.trans hf.params

/-- A command keeps the register space in canonical form (R39). -/
theorem CmdAnswer.wf {i : Instr} {s t : State} (h : CmdAnswer i s t) (hm : Memory.wf s.reg = true) :
    Memory.wf t.reg = true := by
  obtain ⟨u, v, st, d, failed, hf, hc, -, rfl⟩ := h
  have hv : v.reg = u.reg := by cases hc <;> simp [pulseTrigger_main]
  rw [respond_reg, hv]
  exact hf.wf hm

/-- After a read that clears, the overall-wake flag reads 0 (R66). -/
theorem wuFlag_byteAfterRead_of_clears {s : State} (hc : s.params.wakeSrcReadClears = true) :
    (s.byteAfterRead s.params.aWkSrc 1 s.params.aWkSrc.toNat).getLsbD s.params.bWuIa.val = false := by
  rw [State.byteAfterRead, if_pos ⟨hc, rfl, le_rfl, by omega⟩]
  simp

/-- Settles O30: the second WKDET reads what the first one's read left. -/
theorem secondWakeReadMayFindNothing : Obligations.SecondWakeReadMayFindNothing := by
  intro s t u hm hok hst htu
  obtain ⟨t', ht, ⟨-, -, hplan, -, hregs⟩, hresp⟩ := execWkdet_of_ok hm (hok.mono (by decide))
  cases hst.symm.trans ht
  have hp : t.params = s.params := (exec_next hst).params
  obtain ⟨u', hu, -, huresp⟩ := execWkdet_of_ok ((exec_next hst).wf hm) (State.BusOk.drop (k := 1) hok hplan)
  cases htu.symm.trans hu
  rw [hp, hregs] at huresp
  refine ⟨fun hc => ?_, fun hc => ?_⟩
  · rw [huresp, wuFlag_byteAfterRead_of_clears hc]; rfl
  · rw [huresp, hresp, byteAfterRead_of_no_clear (by rw [State.readClears_self, hc])]; rfl

end Sys2Proof.Machine

namespace Sys2Proof.Machine

/-! ### REGWR and the commands that are one read-modify-write (R111, R112, R121, R125) -/

/-- Settles O18: one write, successful or failed. -/
theorem regwrStoresTheByte : Obligations.RegwrStoresTheByte := by
  intro addr data s hm
  refine ⟨fun hok => ?_, fun rest hfail => ?_⟩
  · refine ⟨_, conclude_of_ok (memWrite_of_ok hok.outcome) _, rfl,
      respWord_ok_setWidth (by decide) data, rfl, (List.drop_one ..).symm, rfl, ?_, fun b hb => ?_⟩
    · exact (setReg_regAt hm addr data addr).trans (if_pos rfl)
    · exact (setReg_regAt hm addr data b).trans (if_neg fun h => hb (by simp [h]))
  · refine ⟨_, conclude_of_err (memWrite_of_fail hfail.outcome_zero) _, rfl, hfail.tail_zero, rfl,
      fun b hb => ?_⟩
    exact (setReg_regAt hm addr _ b).trans (if_neg fun h => hb (by simp [h]))

/-- A command that is one successful read-modify-write answers what it makes of the old and the new byte (R68). -/
theorem conclude_rmw {a mask v : Byte} {s : State} (d : Byte × Byte → RespData) (hm : Memory.wf s.reg = true)
    (h : s.BusOk 2) :
    ∃ t, (rmw a mask v s).conclude (fun r t => respond .ok (d r) t) = .next t ∧ AfterOneRmw a mask v s t ∧
      t.resp = respWord .ok (d (s.regAt a, mergeMask (s.regAt a) mask v)) := by
  obtain ⟨t, ht, he, -⟩ := rmw_effect hm h
  exact ⟨_, conclude_of_ok ht _, he.respond .., rfl⟩

theorem conclude_rmw_failed {n : Nat} {a mask v : Byte} {rest : List BusOutcome} {s : State} (hn : n < 2)
    (hm : Memory.wf s.reg = true) (h : s.BusFailsAfter n rest) (k : Byte × Byte → State → State) :
    ∃ t, (rmw a mask v s).conclude k = .next t ∧ AfterFailedRmw n a mask v rest s t := by
  obtain ⟨t, ht, he, -⟩ := rmw_failure hn hm h
  exact ⟨_, conclude_of_err ht _, he⟩

theorem respWord_byteData (b : Byte) : respWord .ok (byteData b) = b.setWidth 64 := respWord_ok_setWidth (by decide) b

theorem respWord_pairData (hi lo : Byte) : respWord .ok (pairData hi lo) = 0#48 ++ hi ++ lo := by
  rw [pairData, respWord_ok_setWidth (by decide), BitVec.setWidth_eq_append (by decide), BitVec.append_assoc']
  rfl

/-- Settles O19: one read-modify-write, successful or failed. -/
theorem regrmwMultiplexesTheField : Obligations.RegrmwMultiplexesTheField := by
  intro addr mask value s hm
  refine ⟨fun hok => ?_, fun n rest hn hfail => conclude_rmw_failed hn hm hfail _⟩
  obtain ⟨t, hx, he, hresp⟩ := conclude_rmw (fun r => pairData r.1 r.2) hm hok
  exact ⟨t, hx, he, hresp.trans (respWord_pairData ..)⟩

/-- A merge leaves every field alone that its mask does not meet. -/
theorem mergeMask_and_of_disjoint {old mask v m : Byte} (h : m &&& mask = 0#8) :
    mergeMask old mask v &&& m = old &&& m := by
  ext i hi
  have hbit : (m &&& mask)[i] = false := by rw [h]; simp
  simp only [BitVec.getElem_and] at hbit
  simp only [mergeMask, BitVec.getElem_and, BitVec.getElem_or, BitVec.getElem_not]
  cases hmi : m[i] <;> simp_all

theorem mergeMask_idem (old mask v : Byte) : mergeMask (mergeMask old mask v) mask v = mergeMask old mask v := by
  ext i hi
  simp only [mergeMask, BitVec.getElem_and, BitVec.getElem_or, BitVec.getElem_not]
  cases mask[i] <;> simp

/-- The mode and the range field do not meet (R10(c)). -/
theorem mMode_and_mFs {p : Params} (hp : p.admissible = true) : p.mMode &&& p.mFs = 0#8 := by
  obtain ⟨-, -, hmode, -⟩ := admissible_iff.mp hp
  simp only [Params.modeFieldsOk, Bool.and_eq_true, beq_iff_eq] at hmode
  exact hmode.2

/-- Settles O21: one read-modify-write of the range field, then `fs_cache`. -/
theorem setfsMergesTheRange : Obligations.SetfsMergesTheRange := by
  intro g s hp hm v
  refine ⟨fun hok => ?_, fun n rest hn hfail => conclude_rmw_failed hn hm hfail _⟩
  obtain ⟨t, ht, he, hf⟩ := rmw_effect (a := s.params.aXlCtrl) (mask := s.params.mFs) (v := v) hm hok
  have he' : AfterOneRmw s.params.aXlCtrl s.params.mFs v { s with fsCache := g } { t with fsCache := g } := by
    obtain ⟨honly, he⟩ := he
    exact ⟨by rw [honly]; rfl, he⟩
  have hnew : t.regAt s.params.aXlCtrl = mergeMask (s.regAt s.params.aXlCtrl) s.params.mFs v := he.2.2.2.2.1
  refine ⟨_, conclude_of_ok ht _, he'.respond .., ?_, ?_⟩
  · exact (respWord_byteData _).trans (congrArg _ hnew.symm)
  · exact (congrArg (· &&& _) hnew).trans (mergeMask_and_of_disjoint (mMode_and_mFs hp))

/-- A successful WKINT (R125). -/
theorem execWkint_of_ok {en : Bool} {s : State} (hm : Memory.wf s.reg = true) (hok : s.BusOk 2) :
    ∃ t, exec (.wkint en) s = .next t ∧
      AfterOneRmw s.params.aIntRoute (routeMask s.params) (bitValue s.params.bRoute en) s t ∧
      t.resp = (t.regAt s.params.aIntRoute).setWidth 64 := by
  obtain ⟨t, hx, he, hresp⟩ := conclude_rmw (a := s.params.aIntRoute) (mask := routeMask s.params)
    (v := bitValue s.params.bRoute en) (fun r => byteData r.2) hm hok
  refine ⟨t, hx, he, ?_⟩
  obtain ⟨-, -, -, -, hnew, -⟩ := he
  rw [hresp, respWord_byteData, hnew, mergeMask]

/-- The merged bit is the operand. -/
theorem getLsbD_mergeMask_bit (old : Byte) (i : Fin 8) (b : Bool) :
    (mergeMask old (bitMask i) (bitValue i b)).getLsbD i.val = b := by
  cases b <;> simp [mergeMask, bitMask, bitValue]

/-- Settles O25: two read-modify-writes of one bit; the second merges what is already there. -/
theorem wkintRoutesTheInterrupt : Obligations.WkintRoutesTheInterrupt := by
  intro en s hm m v
  refine ⟨fun hok => ?_, fun n rest hn hfail => conclude_rmw_failed hn hm hfail _⟩
  obtain ⟨t, ht, he, hresp⟩ := execWkint_of_ok (en := en) hm hok
  have hp : t.params = s.params := (exec_next ht).params
  obtain ⟨-, -, hplan, -, hnew, -⟩ := id he
  refine ⟨t, ht, he, hresp, by rw [hnew]; exact getLsbD_mergeMask_bit .., fun hok4 => ?_⟩
  obtain ⟨u, hu, heu, -⟩ := execWkint_of_ok (en := en) ((exec_next ht).wf hm) (State.BusOk.drop (k := 2) hok4 hplan)
  rw [hp] at heu
  refine ⟨u, hu, heu, fun a => ?_⟩
  obtain ⟨-, -, -, -, hunew, hrest⟩ := heu
  by_cases ha : a = s.params.aIntRoute
  · rw [ha, hunew, hnew]; exact mergeMask_idem ..
  · exact hrest a (by simpa using ha)

/-! ### MAINCHK and SHUTDOWN (R157, R159) -/

theorem respWord_mainchkData (b : Bool) : respWord .ok (mainchkData b) = if b then 3#64 else 1#64 := by
  cases b <;> rfl

theorem execMainchk_of_flag {s : State} (hst : s.params.strategy = .interrupt) (hirq : s.irqFlag = true) :
    exec .mainchk s = (readByte s.params.aWkSrc s).conclude fun v t =>
      respond .ok (mainchkData (decodeWake s.params v).wu) { t with irqFlag := false } :=
  (requireStrategy_of_eq hst _).trans (if_pos hirq)

/-- Settles O38: no read without the flag, one read with it. -/
theorem mainchkInspectsAndClearsTheFlag : Obligations.MainchkInspectsAndClearsTheFlag := by
  intro s hm
  refine ⟨fun hst hirq => ?_, fun hst hirq hok => ?_, fun rest hst hirq hfail => ?_,
    fun hst => requireInterrupt_of_polling hst _⟩
  · exact (requireStrategy_of_eq hst _).trans (if_neg (by simp [hirq]))
  · rw [execMainchk_of_flag hst hirq]
    obtain ⟨t, ht, ⟨honly, he⟩, -⟩ := readByte_effect (a := s.params.aWkSrc) hm hok
    have he' : AfterOneRead s.params.aWkSrc 1 { s with irqFlag := false } { t with irqFlag := false } :=
      ⟨by rw [honly]; rfl, he⟩
    exact ⟨_, conclude_of_ok ht _, he'.respond .., respWord_mainchkData _⟩
  · rw [execMainchk_of_flag hst hirq]
    exact conclude_readByte_failed hm hfail _

/-- Settles O40: the cleanup after a successful and after a failed un-routing. -/
theorem shutdownCleansUpOnEveryPath : Obligations.ShutdownCleansUpOnEveryPath := by
  intro s hm m new
  have hnew : mergeMask (s.regAt s.params.aIntRoute) (routeMask s.params) 0#8 = new := by
    rw [mergeMask, BitVec.zero_and, BitVec.or_zero]; rfl
  refine ⟨fun hok => ?_, fun n rest hn hfail => ?_⟩
  · obtain ⟨t, ht, ⟨honly, hfree, hplan, htrace, hreg, hrest⟩, hf⟩ :=
      rmw_effect (a := s.params.aIntRoute) (mask := routeMask s.params) (v := 0#8) hm hok
    refine ⟨shutdownTail .ok t, by simp only [exec, execShutdown, ht], ?_, hreg.trans hnew, hrest⟩
    have htrace' : t.trace = .busWrite s.params.devAddr s.params.aIntRoute new true ::
        .busRead s.params.devAddr s.params.aIntRoute 1 true :: s.trace := by rw [htrace, ← hnew]; rfl
    rw [hf.only, hplan, hfree, htrace']
    rfl
  · obtain ⟨t, ht, ⟨honly, hplan, hrest, hread, -⟩, hf⟩ :=
      rmw_failure (a := s.params.aIntRoute) (mask := routeMask s.params) (v := 0#8) hn hm hfail
    refine ⟨shutdownTail .busError { t with busFault := true }, by simp only [exec, execShutdown, ht], ?_, hrest,
      fun hn0 => (hread hn0).2⟩
    rw [raiseBusError_busPlan] at hplan
    rw [hf.only, hplan]
    rfl

end Sys2Proof.Machine

namespace Sys2Proof.Machine

/-! ### POLLSTEP (R144) -/

theorem pollData_eq (x : AxisWord) (trig : Bool) :
    pollData x trig = (x ++ (0#14 ++ BitVec.ofBool trig ++ 1#1)).setWidth 48 := by
  have hlow : (0#14 ++ BitVec.ofBool trig ++ 1#1).setWidth 48 = ((BitVec.ofBool trig).setWidth 48 <<< 1) ||| 1#48 := by
    cases trig <;> rfl
  have happend := BitVec.setWidth_append_eq_shiftLeft_setWidth_or (w'' := 48) (b := x)
    (b' := 0#14 ++ BitVec.ofBool trig ++ 1#1)
  rw [happend, hlow, pollData, BitVec.or_assoc]

theorem respWord_pollData (x : AxisWord) (trig : Bool) :
    respWord .ok (pollData x trig) = 0#32 ++ x ++ 0#14 ++ BitVec.ofBool trig ++ 1#1 := by
  rw [pollData_eq, respWord_ok_setWidth (by decide), BitVec.setWidth_eq_append (by decide), BitVec.append_assoc',
    BitVec.append_assoc', BitVec.append_assoc']
  rfl

/-- The detection (R144) as one update: the sample is kept, and a trigger of the main context when the delta says so. -/
theorem pollDetect_eq {v : Sample} {s : State} {trig : Bool}
    (ht : trig = decide (s.params.threshold < sampleDelta v.x s.lastX)) :
    pollDetect v s =
      { s with
        resp := respWord .ok (pollData v.x trig), lastX := v.x, active := s.active || trig,
        deadline := (if trig then s.now + s.params.durationMs else s.deadline),
        pinOnboard := (if trig then List.replicate s.params.nOnboard .low else s.pinOnboard),
        pinExt := (if trig then .high else s.pinExt),
        hold := (if trig = true ∧ s.params.pulseImpl = .blocking then .block (s.now + s.params.durationMs)
          else s.hold),
        trace := (if trig then [.pins s.now .active] else []) ++ s.trace } := by
  unfold pollDetect
  rw [← ht]
  cases trig with
  | false => simp [respond]
  | true =>
    rw [if_pos rfl, pulseTrigger_main]
    cases s.params.pulseImpl <;> simp [respond, startPulse, setOutputs, OutputKind.onboardLevel, OutputKind.extLevel]

/-- A byte of the register space after a read, at any offset below 256 (R60, R66). -/
theorem AfterOneRead.read {a : Byte} {n : Nat} {s t : State} (h : AfterOneRead a n s t) {k : Nat} (hk : k < 256) :
    Memory.read t.reg k = s.byteAfterRead a n k := by
  obtain ⟨-, -, -, -, hregs⟩ := h
  simpa [State.regAt, Nat.mod_eq_of_lt hk] using hregs (BitVec.ofNat 8 k)

/-- Clearing bits twice, under either condition, is clearing them once. -/
theorem and_of_ite_and_ite {P Q : Prop} [Decidable P] [Decidable Q] (x m : Byte) :
    (if Q then (if P then x &&& m else x) &&& m else if P then x &&& m else x) =
      (if P then x &&& m else x) &&& (if Q then x &&& m else x) := by
  by_cases hP : P <;> by_cases hQ : Q <;> ext i hi <;> cases h : x[i] <;> simp [hP, hQ, h]

/-- Two reads in a row clear what either clears (R66). -/
theorem byteAfterRead_of_two_reads {s t : State} {a a' b : Byte} {n n' : Nat} (hp : t.params = s.params)
    (h : t.regAt b = s.byteAfterRead a n b.toNat) :
    t.byteAfterRead a' n' b.toNat = s.byteAfterRead a n b.toNat &&& s.byteAfterRead a' n' b.toNat := by
  unfold State.regAt at h
  unfold State.byteAfterRead at h ⊢
  rw [hp, h, and_of_ite_and_ite]

section
variable {s t u : State} {v : Byte} {b : List Byte} (hst : s.params.strategy = .polling)
include hst

theorem exec_pollstep_of_not_ready (hr : readByte s.params.aStatus s = .ok v t) (hv : xlReady v = false) :
    exec .pollstep s = .next (respond .ok 0#48 t) := by
  simp only [exec, execPollstep, requireStrategy_of_eq hst, hr, hv, BusRes.bind_ok, BusRes.conclude_ok,
    Bool.false_eq_true, if_false]

theorem exec_pollstep_of_ready (hr : readByte s.params.aStatus s = .ok v t) (hv : xlReady v = true)
    (hb : memRead s.params.aOutXl 6 t = .ok b u) : exec .pollstep s = .next (pollDetect (decodeSample b) u) := by
  simp only [exec, execPollstep, requireStrategy_of_eq hst, hr, hv, hb, BusRes.bind_ok, BusRes.conclude_ok, if_true]

theorem exec_pollstep_of_read_failed (hr : readByte s.params.aStatus s = .err t) :
    exec .pollstep s = .next (raiseBusError t) := by
  simp only [exec, execPollstep, requireStrategy_of_eq hst, hr, BusRes.bind_err, BusRes.conclude_err]

theorem exec_pollstep_of_burst_failed (hr : readByte s.params.aStatus s = .ok v t) (hv : xlReady v = true)
    (hb : memRead s.params.aOutXl 6 t = .err u) : exec .pollstep s = .next (raiseBusError u) := by
  simp only [exec, execPollstep, requireStrategy_of_eq hst, hr, hv, hb, BusRes.bind_ok, BusRes.bind_err,
    BusRes.conclude_err, if_true]

end

/-! ### Bus effects in a row -/

theorem OnlyBusEffects.trans {s t u : State} (h : OnlyBusEffects s t) (h' : OnlyBusEffects t u) :
    OnlyBusEffects s u := by
  unfold OnlyBusEffects at *
  rw [h', h]

theorem OnlyBusEffects.busError {s t u : State} (h : OnlyBusEffects s t) (h' : OnlyBusErrorEffects t u) :
    OnlyBusErrorEffects s u := by
  unfold OnlyBusEffects OnlyBusErrorEffects at *
  rw [h', h]

theorem RegsUnchangedOutside.trans {as bs : List Byte} {s t u : State} (h : RegsUnchangedOutside as s t)
    (h' : RegsUnchangedOutside bs t u) : RegsUnchangedOutside (as ++ bs) s u := fun b hb => by
  rw [List.mem_append, not_or] at hb
  rw [h' b hb.2, h b hb.1]

theorem RegsUnchangedOutside.mono {as bs : List Byte} {s t : State} (h : RegsUnchangedOutside as s t)
    (hsub : as ⊆ bs) : RegsUnchangedOutside bs s t := fun b hb => h b fun hb' => hb (hsub hb')

/-- A read changes `WK_SRC` at most (R66). -/
theorem AfterOneRead.regs {a : Byte} {n : Nat} {s t : State} (h : AfterOneRead a n s t) :
    RegsUnchangedOutside [s.params.aWkSrc] s t := fun b hb => by
  obtain ⟨-, -, -, -, hregs⟩ := h
  rw [hregs b, byteAfterRead_of_ne (by simpa using hb)]

theorem AfterFailedRead.regs {a : Byte} {n : Nat} {rest : List BusOutcome} {s t : State}
    (h : AfterFailedRead a n rest s t) : RegsUnchangedOutside [s.params.aWkSrc] s t := fun b hb => by
  obtain ⟨-, -, -, hregs | hregs⟩ := h
  · exact hregs b
  · rw [hregs b, byteAfterRead_of_ne (by simpa using hb)]

theorem OnlyBusEffects.params {s t : State} (h : OnlyBusEffects s t) : t.params = s.params := by rw [h]

/-- POLLSTEP with a sample ready: two reads, then the detection (R144). -/
theorem exec_pollstep_of_two_reads {s : State} (hp : s.params.admissible = true) (hm : Memory.wf s.reg = true)
    (hst : s.params.strategy = .polling) (hok : s.BusOk 2) (hready : xlReady (s.regAt s.params.aStatus) = true) :
    ∃ t u, AfterOneRead s.params.aStatus 1 s t ∧ AfterOneRead s.params.aOutXl 6 t u ∧
      exec .pollstep s = .next (pollDetect (decodeSample (Memory.readBytes t.reg s.params.aOutXl.toNat 6)) u) := by
  obtain ⟨t, ht, he, hft⟩ := readByte_effect (a := s.params.aStatus) hm (hok.mono (by decide))
  obtain ⟨-, -, hplan, -⟩ := id he
  obtain ⟨u, hu, heu, -⟩ := memRead_effect (burst_fits hp) (hft.wf hm) (State.BusOk.drop (k := 1) hok hplan)
  exact ⟨t, u, he, heu, exec_pollstep_of_ready hst ht hready hu⟩

/-- POLLSTEP whose status read or burst failed (R144, R167). -/
theorem exec_pollstep_of_failure {s : State} (hp : s.params.admissible = true) (hm : Memory.wf s.reg = true)
    (hst : s.params.strategy = .polling) {n : Nat} {rest : List BusOutcome} (hn : n < 2)
    (hready : n = 1 → xlReady (s.regAt s.params.aStatus) = true) (hfail : s.BusFailsAfter n rest) :
    ∃ t, exec .pollstep s = .next t ∧ OnlyBusErrorEffects s t ∧ t.busPlan = rest ∧
      RegsUnchangedOutside [s.params.aWkSrc] s t := by
  match n, hn with
  | 0, _ =>
    obtain ⟨t, ht, he, -⟩ := readByte_failure (a := s.params.aStatus) hm hfail
    exact ⟨_, exec_pollstep_of_read_failed hst ht, he.1, he.2.1, he.regs⟩
  | 1, _ =>
    obtain ⟨t, ht, he, hft⟩ := readByte_effect (a := s.params.aStatus) hm (hfail.busOk le_rfl)
    obtain ⟨honly, -, hplan, -⟩ := id he
    obtain ⟨u, hu, heu, -⟩ := memRead_failure (burst_fits hp) (hft.wf hm)
      (State.BusFailsAfter.drop (k := 1) (n := 0) hfail hplan)
    have hregs := heu.regs
    rw [hft.params] at hregs
    exact ⟨_, exec_pollstep_of_burst_failed hst ht (hready rfl) hu, honly.busError heu.1, heu.2.1,
      (he.regs.trans hregs).mono (by simp)⟩

/-- Settles O32: one read when no sample is ready, two and the detection when one is. -/
theorem pollstepDetectsTheDelta : Obligations.PollstepDetectsTheDelta := by
  intro s hp hm p ready x trig
  refine ⟨fun hst hok hready => ?_, fun hst hok hready => ?_,
    fun n rest hst hn hready hfail => exec_pollstep_of_failure hp hm hst hn hready hfail, fun hst => ?_⟩
  · obtain ⟨t, ht, he, -⟩ := readByte_effect (a := p.aStatus) hm hok
    exact ⟨_, exec_pollstep_of_not_ready hst ht hready, he.respond .., rfl⟩
  · obtain ⟨t, u, ht, hu, hx⟩ := exec_pollstep_of_two_reads hp hm hst hok hready
    obtain ⟨honly, hfree, hplan, htrace, hregs⟩ := id ht
    obtain ⟨honly', hfree', hplan', htrace', hregs'⟩ := hu
    rw [honly.params] at htrace'
    have hreads : u = { s with
        resp := u.resp, reg := u.reg, busPlan := s.busPlan.drop 2,
        trace := .busRead p.devAddr p.aOutXl 6 true :: .busRead p.devAddr p.aStatus 1 true :: s.trace } := by
      rw [honly.trans honly', hfree', hfree, hplan', hplan, List.drop_drop, htrace', htrace]
    have hsample : (decodeSample (Memory.readBytes t.reg p.aOutXl.toNat 6)).x = x := by
      have hburst : p.aOutXl.toNat + 6 ≤ 256 := burst_fits hp
      exact congrArg₂ (· ++ ·) (ht.read (k := p.aOutXl.toNat + 1) (by omega)) (ht.read (k := p.aOutXl.toNat) (by omega))
    have htrig : trig = decide (u.params.threshold <
        sampleDelta (decodeSample (Memory.readBytes t.reg p.aOutXl.toNat 6)).x u.lastX) := by
      rw [hsample, hreads]; rfl
    refine ⟨_, hx, ?_⟩
    rw [pollDetect_eq htrig, hsample]
    refine ⟨respWord_pollData .., ?_, ?_, fun b => ?_, ?_⟩
    · rw [hreads]
    · rw [hreads]
    · exact (hregs' b).trans (byteAfterRead_of_two_reads honly.params (hregs b))
    · rw [hreads]
  · exact (requireStrategy_of_ne (st := .polling) (fun h => nomatch hst.symm.trans h) _).trans (by rw [illegal_eq])

end Sys2Proof.Machine

namespace Sys2Proof.Machine

/-! ### Registers that share an offset (R10(b)) -/

theorem pairwise_of_disjointSharing {l : List (Byte × Byte)} (h : disjointSharing l = true) :
    l.Pairwise fun r q => r.1 = q.1 → r.2 &&& q.2 = 0#8 := by
  induction l with
  | nil => exact .nil
  | cons r rest ih =>
    simp only [disjointSharing, Bool.and_eq_true, List.all_eq_true, Bool.or_eq_true, bne_iff_ne, beq_iff_eq] at h
    exact .cons (fun q hq heq => (h.1 q hq).resolve_left fun hne => hne heq) (ih h.2)

/-- Configuration registers that share an offset have disjoint fields. -/
theorem configRegs_disjoint {p : Params} (hp : p.admissible = true) :
    (configRegs p).Pairwise fun r q => r.1 = q.1 → r.2 &&& q.2 = 0#8 := by
  obtain ⟨-, hsharing, -⟩ := admissible_iff.mp hp
  exact pairwise_of_disjointSharing hsharing

theorem wakeFields_disjoint {p : Params} (hp : p.admissible = true) :
    (p.aWkThs = p.aWkDur → p.mThs &&& p.mDur = 0#8) ∧ (p.aWkThs = p.aIntCfg → p.mThs &&& intCfgMask p = 0#8) ∧
      (p.aWkDur = p.aIntCfg → p.mDur &&& intCfgMask p = 0#8) := by
  have h := configRegs_disjoint hp
  simp only [configRegs, List.pairwise_cons, List.mem_cons, forall_eq_or_imp] at h
  obtain ⟨-, -, ⟨hdur, hcfg, -⟩, ⟨hdcfg, -⟩, -⟩ := h
  exact ⟨hdur, hcfg, hdcfg⟩

/-- The mode field is not empty (R10(c)). -/
theorem mMode_ne_zero {p : Params} (hp : p.admissible = true) : p.mMode ≠ 0#8 := by
  obtain ⟨-, -, hmode, -⟩ := admissible_iff.mp hp
  simp only [Params.modeFieldsOk, Bool.and_eq_true, Bool.or_eq_true, beq_iff_eq] at hmode
  obtain ⟨⟨⟨⟨hs, hm⟩, -⟩, -⟩, -⟩ := hmode
  rw [hm]
  obtain hs | hs := hs <;> rw [hs] <;> decide

/-- Both mode registers hold a mode field, so they do not share an offset (R10(b)). -/
theorem aXlCtrl_ne_aGCtrl {p : Params} (hp : p.admissible = true) : p.aXlCtrl ≠ p.aGCtrl := by
  intro heq
  have h := configRegs_disjoint hp
  simp only [configRegs, List.pairwise_cons, List.mem_cons, forall_eq_or_imp] at h
  have hzero : (p.mMode ||| p.mFs) &&& p.mMode = 0#8 := h.1.1 heq
  refine mMode_ne_zero hp ?_
  rw [← hzero]
  ext i hi
  cases h : p.mMode[i] <;> simp [h]

/-! ### Read-modify-writes in a row -/

/-- After a read-modify-write the field under its mask holds the given value. -/
theorem AfterOneRmw.merged {a mask v : Byte} {s t : State} (h : AfterOneRmw a mask v s t) :
    t.regAt a &&& mask = v &&& mask := by
  obtain ⟨-, -, -, -, hnew, -⟩ := h
  rw [hnew]; exact mergeMask_and_mask ..

/-- A read-modify-write leaves every field alone that its mask does not meet at its offset. -/
theorem AfterOneRmw.field {a mask v : Byte} {s t : State} (h : AfterOneRmw a mask v s t) {b m : Byte}
    (hd : b = a → m &&& mask = 0#8) : t.regAt b &&& m = s.regAt b &&& m := by
  obtain ⟨-, -, -, -, hnew, hrest⟩ := h
  by_cases hb : b = a
  · rw [hb, hnew]; exact mergeMask_and_of_disjoint (hd hb)
  · rw [hrest b (by simpa using hb)]

/-- A failed read-modify-write of a register that is not `WK_SRC` changes it only when the write was issued (R67,
R68). -/
theorem AfterFailedRmw.regs {n : Nat} {a mask v : Byte} {rest : List BusOutcome} {s t : State} (hn : n < 2)
    (ha : a ≠ s.params.aWkSrc) (h : AfterFailedRmw n a mask v rest s t) : RegsUnchangedOutside ([a].take n) s t := by
  obtain ⟨-, -, hrest, hread, -⟩ := h
  match n, hn with
  | 0, _ =>
    obtain ⟨-, hregs | hregs⟩ := hread rfl
    · exact fun b _ => hregs b
    · exact fun b _ => (hregs b).trans (byteAfterRead_of_no_clear (State.readClears_of_ne ha))
  | 1, _ => exact hrest

/-! ### CFGMODE (R120)

How the two read-modify-writes run, one lemma per place where the row can end; the proof of the claim then speaks of
registers only. -/

section
variable {s : State} (hm : Memory.wf s.reg = true) (am gm : Mode)
include hm

theorem cfgmode_of_ok (hok : s.BusOk 4) :
    ∃ t u, AfterOneRmw s.params.aXlCtrl s.params.mMode (placeField (modeCode s.params am) s.params.sMode) s t ∧
      AfterOneRmw s.params.aGCtrl s.params.mMode (placeField (modeCode s.params gm) s.params.sMode) t u ∧
      exec (.cfgmode (modeIndex am) (modeIndex gm)) s = .next u ∧
      u.resp = 0#48 ++
        mergeMask (t.regAt s.params.aGCtrl) s.params.mMode (placeField (modeCode s.params gm) s.params.sMode) ++
        mergeMask (s.regAt s.params.aXlCtrl) s.params.mMode (placeField (modeCode s.params am) s.params.sMode) := by
  obtain ⟨t, ht, he, hf⟩ := rmw_effect (a := s.params.aXlCtrl) (mask := s.params.mMode)
    (v := placeField (modeCode s.params am) s.params.sMode) hm (hok.mono (by decide))
  obtain ⟨-, -, hplan, -⟩ := id he
  obtain ⟨u, hu, he', -⟩ := rmw_effect (a := s.params.aGCtrl) (mask := s.params.mMode)
    (v := placeField (modeCode s.params gm) s.params.sMode) (hf.wf hm) (State.BusOk.drop (k := 2) hok hplan)
  refine ⟨t, respond .ok _ u, he, he'.respond .., ?_, respWord_pairData ..⟩
  simp only [exec, execCfgmode, modeOfIndex_modeIndex, ht, hu, BusRes.bind_ok, BusRes.conclude_ok]

theorem cfgmode_of_first_failed {n : Nat} {rest : List BusOutcome} (hn : n < 2) (hfail : s.BusFailsAfter n rest) :
    ∃ t, AfterFailedRmw n s.params.aXlCtrl s.params.mMode (placeField (modeCode s.params am) s.params.sMode) rest s t ∧
      exec (.cfgmode (modeIndex am) (modeIndex gm)) s = .next t := by
  obtain ⟨t, ht, he, -⟩ := rmw_failure (a := s.params.aXlCtrl) (mask := s.params.mMode)
    (v := placeField (modeCode s.params am) s.params.sMode) hn hm hfail
  refine ⟨_, he, ?_⟩
  simp only [exec, execCfgmode, modeOfIndex_modeIndex, ht, BusRes.bind_err, BusRes.conclude_err]

theorem cfgmode_of_second_failed {n : Nat} {rest : List BusOutcome} (hn : n < 2)
    (hfail : s.BusFailsAfter (2 + n) rest) :
    ∃ t u, AfterOneRmw s.params.aXlCtrl s.params.mMode (placeField (modeCode s.params am) s.params.sMode) s t ∧
      AfterFailedRmw n s.params.aGCtrl s.params.mMode (placeField (modeCode s.params gm) s.params.sMode) rest t u ∧
      exec (.cfgmode (modeIndex am) (modeIndex gm)) s = .next u := by
  obtain ⟨t, ht, he, hf⟩ := rmw_effect (a := s.params.aXlCtrl) (mask := s.params.mMode)
    (v := placeField (modeCode s.params am) s.params.sMode) hm (hfail.busOk (by omega))
  obtain ⟨-, -, hplan, -⟩ := id he
  obtain ⟨u, hu, he', -⟩ := rmw_failure (a := s.params.aGCtrl) (mask := s.params.mMode)
    (v := placeField (modeCode s.params gm) s.params.sMode) hn (hf.wf hm) (State.BusFailsAfter.drop hfail hplan)
  refine ⟨t, _, he, he', ?_⟩
  simp only [exec, execCfgmode, modeOfIndex_modeIndex, ht, hu, BusRes.bind_ok, BusRes.bind_err, BusRes.conclude_err]

end

/-- Settles O20: two read-modify-writes of different registers, the second only after the first succeeded. -/
theorem cfgmodeWritesBothModes : Obligations.CfgmodeWritesBothModes := by
  intro s hp hm
  have hne := aXlCtrl_ne_aGCtrl hp
  have hx : s.params.aXlCtrl ≠ s.params.aWkSrc := ne_wkSrc_of_config hp (by simp [isConfigOffset, configRegs])
  have hg : s.params.aGCtrl ≠ s.params.aWkSrc := ne_wkSrc_of_config hp (by simp [isConfigOffset, configRegs])
  refine ⟨fun am gm => ?_, fun amode gmode hbad =>
    (execCfgmode_of_out_of_range hbad s).trans (by rw [badOperand_eq])⟩
  refine ⟨fun hok => ?_, fun n rest hn hfail => ?_⟩
  · obtain ⟨t, u, ⟨honly, hfree, hplan, htrace, hnew, hrest⟩, ⟨honly', hfree', hplan', htrace', hnew', hrest'⟩, hx,
      hresp⟩ := cfgmode_of_ok hm am gm hok
    have hold : t.regAt s.params.aGCtrl = s.regAt s.params.aGCtrl := hrest _ (by simpa using hne.symm)
    rw [hold] at hresp hnew' htrace'
    rw [honly.params, htrace] at htrace'
    exact ⟨u, hx, honly.trans honly', hresp, (hrest' _ (by simpa using hne)).trans hnew, hnew', hrest.trans hrest',
      hfree'.trans hfree, by rw [hplan', hplan, List.drop_drop], htrace'⟩
  · obtain hn2 | ⟨k, rfl⟩ := (lt_or_ge n 2).imp_right Nat.exists_eq_add_of_le
    · obtain ⟨t, ht, hexec⟩ := cfgmode_of_first_failed hm am gm hn2 hfail
      have hregs := ht.regs hn2 hx
      obtain ⟨honly, hplan, hrest, -⟩ := ht
      refine ⟨t, hexec, honly, hplan, hrest.mono (by simp), ?_, by omega, fun _ => hrest _ (by simpa using hne.symm)⟩
      rintro rfl
      exact hregs _ (by simp)
    · have hk : k < 2 := by omega
      obtain ⟨t, u, ⟨honly, -, -, -, hnew, hrest⟩, hu, hexec⟩ := cfgmode_of_second_failed hm am gm hk hfail
      have hregs := hu.regs hk (by rwa [honly.params])
      obtain ⟨honly', hplan, hrest', -⟩ := hu
      refine ⟨u, hexec, honly.busError honly', hplan, hrest.trans hrest', by omega,
        fun _ => (hrest' _ (by simpa using hne)).trans hnew, fun hk0 => ?_⟩
      obtain rfl : k = 0 := by omega
      exact (hregs _ (by simp)).trans (hrest _ (by simpa using hne.symm))

end Sys2Proof.Machine

namespace Sys2Proof.Machine

/-! ### SETWKTHS (R122) -/

/-- A code that fits its field keeps its bits when the field is masked (R7). -/
theorem placeField_and_mask {n : Nat} {code : BitVec n} {m : Byte} (shift : Fin 8)
    (h : code.setWidth 8 &&& m = code.setWidth 8) :
    placeField code shift &&& (m <<< shift.val) = placeField code shift := by
  rw [placeField, ← BitVec.shiftLeft_and_distrib, h]

/-- The wake fields are where their masks say (R10(d)). -/
theorem wakeFields_masks {p : Params} (hp : p.admissible = true) :
    p.mThs = 0x3F#8 <<< p.sThs.val ∧ p.mDur = 0x03#8 <<< p.sDur.val := by
  obtain ⟨-, -, -, hwake, -⟩ := admissible_iff.mp hp
  simp only [Params.wakeFieldsOk, Bool.and_eq_true, beq_iff_eq] at hwake
  obtain ⟨⟨⟨-, hths⟩, -⟩, hdur⟩ := hwake
  exact ⟨hths, hdur⟩

/-- A threshold value fits its six bits (R123). -/
theorem placeField_ths {p : Params} (hp : p.admissible = true) {rv : Nat} (hrv : rv ≤ 63) :
    placeField (BitVec.ofNat 6 rv) p.sThs &&& p.mThs = BitVec.ofNat 8 rv <<< p.sThs.val := by
  have hfit : ∀ c : BitVec 6, c.setWidth 8 &&& 0x3F#8 = c.setWidth 8 := by decide
  have hcode : (BitVec.ofNat 6 rv).setWidth 8 = BitVec.ofNat 8 rv := by
    apply BitVec.eq_of_toNat_eq; simp; omega
  rw [(wakeFields_masks hp).1, placeField_and_mask _ (hfit _), placeField, hcode]

theorem placeField_dur {p : Params} (hp : p.admissible = true) (dur : BitVec 2) :
    placeField dur p.sDur &&& p.mDur = dur.setWidth 8 <<< p.sDur.val := by
  have hfit : ∀ c : BitVec 2, c.setWidth 8 &&& 0x03#8 = c.setWidth 8 := by decide
  rw [(wakeFields_masks hp).2, placeField_and_mask _ (hfit _), placeField]

/-- What SETWKTHS writes into the threshold field: the threshold function of the request and `fs_cache` (R122). -/
def thsBits (thr : BitVec 16) (s : State) : Byte :=
  placeField (BitVec.ofNat 6 (thsValue s.params.tieRule thr.toNat s.fsCache)) s.params.sThs

/-- What SETWKTHS writes into the interrupt bits (R122). -/
def intCfgBits (p : Params) (hp : Bool) : Byte := bitMask p.bIntEn ||| bitValue p.bHpSel hp

theorem intCfgBits_and_mask (p : Params) (hp : Bool) : intCfgBits p hp &&& intCfgMask p = intCfgBits p hp := by
  unfold intCfgBits intCfgMask bitValue
  ext i hi
  cases hp <;> cases h : (bitMask p.bIntEn)[i] <;> simp [h]

/-- The effective threshold of the greatest value at the widest range (R124). -/
theorem eff8_le {rv : Nat} (hrv : rv ≤ 63) (g : FsRange) : eff8 rv g ≤ 126000 := by
  have hg : fsG g ≤ 16 := by cases g <;> decide
  calc rv * fsG g * 125 ≤ 63 * 16 * 125 := by gcongr
    _ = 126000 := rfl

/-- The response of SETWKTHS as a number: the effective threshold above the register value (R122, R124). -/
theorem toNat_respWord_thsData {rv : Nat} (hrv : rv ≤ 63) (g : FsRange) :
    (respWord .ok (thsData rv g)).toNat = rv * fsG g * 125 * 256 + rv := by
  have heff := eff8_le hrv g
  have hrv8 : rv < 2 ^ 8 := by omega
  rw [respWord_ok, thsData, BitVec.toNat_setWidth_of_le (by decide), BitVec.toNat_or, BitVec.toNat_shiftLeft,
    BitVec.toNat_ofNat, BitVec.toNat_ofNat, Nat.mod_eq_of_lt (by omega : eff8 rv g < 2 ^ 48),
    Nat.mod_eq_of_lt (by omega : rv < 2 ^ 48), Nat.shiftLeft_eq, Nat.mod_eq_of_lt (by omega), ← Nat.shiftLeft_eq,
    ← Nat.shiftLeft_add_eq_or_of_lt hrv8, Nat.shiftLeft_eq, eff8]

/-! How the three read-modify-writes run, one lemma per place where the row can end. -/

section
variable {s : State} (hm : Memory.wf s.reg = true) (thr : BitVec 16) (hp : Bool) (dur : BitVec 2)
include hm

theorem setwkths_of_ok (hok : s.BusOk 6) :
    ∃ t u w, AfterOneRmw s.params.aWkThs s.params.mThs (thsBits thr s) s t ∧
      AfterOneRmw s.params.aWkDur s.params.mDur (placeField dur s.params.sDur) t u ∧
      AfterOneRmw s.params.aIntCfg (intCfgMask s.params) (intCfgBits s.params hp) u w ∧
      exec (.setwkths thr hp dur) s = .next w ∧
      w.resp = respWord .ok (thsData (thsValue s.params.tieRule thr.toNat s.fsCache) s.fsCache) := by
  obtain ⟨t, ht, he, hf⟩ := rmw_effect (a := s.params.aWkThs) (mask := s.params.mThs) (v := thsBits thr s) hm
    (hok.mono (by decide))
  obtain ⟨-, -, hplan, -⟩ := id he
  have hok' : t.BusOk 4 := State.BusOk.drop (k := 2) hok hplan
  obtain ⟨u, hu, he', hf'⟩ := rmw_effect (a := s.params.aWkDur) (mask := s.params.mDur)
    (v := placeField dur s.params.sDur) (hf.wf hm) (hok'.mono (by decide))
  obtain ⟨-, -, hplan', -⟩ := id he'
  obtain ⟨w, hw, he'', -⟩ := rmw_effect (a := s.params.aIntCfg) (mask := intCfgMask s.params)
    (v := intCfgBits s.params hp) (hf'.wf (hf.wf hm)) (State.BusOk.drop (k := 2) hok' hplan')
  refine ⟨t, u, respond .ok _ w, he, he', he''.respond .., ?_, rfl⟩
  rw [thsBits] at ht
  rw [intCfgBits] at hw
  simp only [exec, execSetwkths, ht, hu, hw, BusRes.bind_ok, BusRes.conclude_ok]

theorem setwkths_of_first_failed {n : Nat} {rest : List BusOutcome} (hn : n < 2) (hfail : s.BusFailsAfter n rest) :
    ∃ t, AfterFailedRmw n s.params.aWkThs s.params.mThs (thsBits thr s) rest s t ∧
      exec (.setwkths thr hp dur) s = .next t := by
  obtain ⟨t, ht, he, -⟩ := rmw_failure (a := s.params.aWkThs) (mask := s.params.mThs) (v := thsBits thr s) hn hm hfail
  refine ⟨_, he, ?_⟩
  rw [thsBits] at ht
  simp only [exec, execSetwkths, ht, BusRes.bind_err, BusRes.conclude_err]

theorem setwkths_of_second_failed {n : Nat} {rest : List BusOutcome} (hn : n < 2)
    (hfail : s.BusFailsAfter (2 + n) rest) :
    ∃ t u, AfterOneRmw s.params.aWkThs s.params.mThs (thsBits thr s) s t ∧
      AfterFailedRmw n s.params.aWkDur s.params.mDur (placeField dur s.params.sDur) rest t u ∧
      exec (.setwkths thr hp dur) s = .next u := by
  obtain ⟨t, ht, he, hf⟩ := rmw_effect (a := s.params.aWkThs) (mask := s.params.mThs) (v := thsBits thr s) hm
    (hfail.busOk (by omega))
  obtain ⟨-, -, hplan, -⟩ := id he
  obtain ⟨u, hu, he', -⟩ := rmw_failure (a := s.params.aWkDur) (mask := s.params.mDur)
    (v := placeField dur s.params.sDur) hn (hf.wf hm) (State.BusFailsAfter.drop hfail hplan)
  refine ⟨t, _, he, he', ?_⟩
  rw [thsBits] at ht
  simp only [exec, execSetwkths, ht, hu, BusRes.bind_ok, BusRes.bind_err, BusRes.conclude_err]

theorem setwkths_of_third_failed {n : Nat} {rest : List BusOutcome} (hn : n < 2)
    (hfail : s.BusFailsAfter (2 + (2 + n)) rest) :
    ∃ t u w, AfterOneRmw s.params.aWkThs s.params.mThs (thsBits thr s) s t ∧
      AfterOneRmw s.params.aWkDur s.params.mDur (placeField dur s.params.sDur) t u ∧
      AfterFailedRmw n s.params.aIntCfg (intCfgMask s.params) (intCfgBits s.params hp) rest u w ∧
      exec (.setwkths thr hp dur) s = .next w := by
  obtain ⟨t, ht, he, hf⟩ := rmw_effect (a := s.params.aWkThs) (mask := s.params.mThs) (v := thsBits thr s) hm
    (hfail.busOk (by omega))
  obtain ⟨-, -, hplan, -⟩ := id he
  have hfail' : t.BusFailsAfter (2 + n) rest := State.BusFailsAfter.drop hfail hplan
  obtain ⟨u, hu, he', hf'⟩ := rmw_effect (a := s.params.aWkDur) (mask := s.params.mDur)
    (v := placeField dur s.params.sDur) (hf.wf hm) (hfail'.busOk (by omega))
  obtain ⟨-, -, hplan', -⟩ := id he'
  obtain ⟨w, hw, he'', -⟩ := rmw_failure (a := s.params.aIntCfg) (mask := intCfgMask s.params)
    (v := intCfgBits s.params hp) hn (hf'.wf (hf.wf hm)) (State.BusFailsAfter.drop hfail' hplan')
  refine ⟨t, u, _, he, he', he'', ?_⟩
  rw [thsBits] at ht
  rw [intCfgBits] at hw
  simp only [exec, execSetwkths, ht, hu, hw, BusRes.bind_ok, BusRes.conclude_err]

end

/-! What the row means for the fields. -/

/-- Outside all fields is outside each of them. -/
theorem not_or_and_eq_zero (x y z : Byte) :
    ~~~(x ||| y ||| z) &&& x = 0#8 ∧ ~~~(x ||| y ||| z) &&& y = 0#8 ∧ ~~~(x ||| y ||| z) &&& z = 0#8 := by
  refine ⟨?_, ?_, ?_⟩ <;> ext i hi <;> cases hx : x[i] <;> cases hy : y[i] <;> cases hz : z[i] <;> simp [hx, hy, hz]

/-- A register is outside a write that was not issued, or that went to another one. -/
theorem not_mem_take_singleton {n : Nat} {a b : Byte} (h : n ≠ 0 → a ≠ b) : b ∉ [a].take n := by
  cases n with
  | zero => simp
  | succ n => simpa using (h n.succ_ne_zero).symm

/-- Settles O24: three read-modify-writes in a row; fields that share a register do not meet, and a failure stops the
row. -/
theorem setwkthsWritesThreeFields : Obligations.SetwkthsWritesThreeFields := by
  intro thr hpsel dur s hp hm p rv ths durBits cfgMask cfgBits fieldsAt
  have hrv : rv ≤ 63 := thsValue_le ..
  have hths : thsBits thr s &&& p.mThs = ths := placeField_ths hp hrv
  have hdur : placeField dur p.sDur &&& p.mDur = durBits := placeField_dur hp dur
  obtain ⟨hthsDur, hthsCfg, hdurCfg⟩ := wakeFields_disjoint hp
  have hne : p.aWkThs ≠ p.aWkSrc ∧ p.aWkDur ≠ p.aWkSrc ∧ p.aIntCfg ≠ p.aWkSrc := by
    refine ⟨?_, ?_, ?_⟩ <;> exact ne_wkSrc_of_config hp (by simp [p, isConfigOffset, configRegs])
  obtain ⟨hneThs, hneDur, hneCfg⟩ := hne
  refine ⟨fun hok => ?_, fun n rest hn hfail => ?_⟩
  · obtain ⟨t, u, w, h1, h2, h3, hx, hresp⟩ := setwkths_of_ok hm thr hpsel dur hok
    obtain ⟨honly1, hfree1, hplan1, -⟩ := id h1
    obtain ⟨honly2, hfree2, hplan2, -⟩ := id h2
    obtain ⟨honly3, hfree3, hplan3, -⟩ := id h3
    refine ⟨w, hx, (honly1.trans honly2).trans honly3, by rw [hresp, toNat_respWord_thsData hrv], ?_, ?_, ?_,
      fun a => ?_, hfree3.trans (hfree2.trans hfree1), by rw [hplan3, hplan2, hplan1, List.drop_drop, List.drop_drop]⟩
    · rw [h3.field hthsCfg, h2.field hthsDur, h1.merged, hths]
    · rw [h3.field hdurCfg, h2.merged, hdur]
    · exact h3.merged.trans (intCfgBits_and_mask ..)
    · obtain ⟨hout1, hout2, hout3⟩ := not_or_and_eq_zero (if a = p.aWkThs then p.mThs else 0#8)
        (if a = p.aWkDur then p.mDur else 0#8) (if a = p.aIntCfg then cfgMask else 0#8)
      refine (h3.field fun ha => ?_).trans ((h2.field fun ha => ?_).trans (h1.field fun ha => ?_))
      · exact (congrArg (_ &&& ·) (if_pos ha).symm).trans hout3
      · exact (congrArg (_ &&& ·) (if_pos ha).symm).trans hout2
      · exact (congrArg (_ &&& ·) (if_pos ha).symm).trans hout1
  · have hcases : n < 2 ∨ (∃ k < 2, n = 2 + k) ∨ ∃ k < 2, n = 2 + (2 + k) := by
      obtain h | h | h : n < 2 ∨ n - 2 < 2 ∧ 2 ≤ n ∨ n - 4 < 2 ∧ 4 ≤ n := by omega
      · exact .inl h
      · exact .inr (.inl ⟨n - 2, h.1, by omega⟩)
      · exact .inr (.inr ⟨n - 4, h.1, by omega⟩)
    obtain hn2 | ⟨k, hk, rfl⟩ | ⟨k, hk, rfl⟩ := hcases
    · obtain ⟨t, h1, hx⟩ := setwkths_of_first_failed hm thr hpsel dur hn2 hfail
      have hregs := h1.regs hn2 hneThs
      obtain ⟨honly, hplan, -⟩ := h1
      refine ⟨t, hx, honly, hplan, hregs.mono ?_, by omega, by omega⟩
      interval_cases n <;> simp
    · obtain ⟨t, u, h1, h2, hx⟩ := setwkths_of_second_failed hm thr hpsel dur hk hfail
      obtain ⟨honly1, -, -, -, -, hrest1⟩ := id h1
      have hregs := h2.regs hk (by rwa [honly1.params])
      obtain ⟨honly2, hplan, -⟩ := h2
      refine ⟨u, hx, honly1.busError honly2, hplan, (hrest1.trans hregs).mono ?_, fun _ h3 _ => ?_, by omega⟩
      · interval_cases k <;> simp [p]
      · rw [hregs _ (not_mem_take_singleton fun hk => h3 (by omega)), h1.merged, hths]
    · obtain ⟨t, u, w, h1, h2, h3, hx⟩ := setwkths_of_third_failed hm thr hpsel dur hk hfail
      obtain ⟨honly1, -, -, -, -, hrest1⟩ := id h1
      obtain ⟨honly2, -, -, -, -, hrest2⟩ := id h2
      have hregs := h3.regs hk (by rwa [honly2.params, honly1.params])
      obtain ⟨honly3, hplan, -⟩ := h3
      refine ⟨w, hx, (honly1.trans honly2).busError honly3, hplan, ((hrest1.trans hrest2).trans hregs).mono ?_,
        fun _ _ h5 => ?_, fun _ h5 => ?_⟩
      · interval_cases k <;> simp [p]
      · rw [hregs _ (not_mem_take_singleton fun hk => h5 (by omega)), h2.field hthsDur, h1.merged, hths]
      · rw [hregs _ (not_mem_take_singleton fun hk => h5 (by omega)), h2.merged, hdur]

end Sys2Proof.Machine

namespace Sys2Proof.Machine

/-! ### The effective threshold (R124) -/

/-- Rounding moves a quotient by at most a half (R12). -/
theorem roundQuot_bounds {num den : Nat} (hden : 0 < den) (tie : TieRule) :
    2 * num ≤ 2 * (roundQuot tie num den * den) + den ∧ 2 * (roundQuot tie num den * den) ≤ 2 * num + den := by
  have hdiv := Nat.div_add_mod' num den
  have hmod := Nat.mod_lt num hden
  have hsucc : (num / den + 1) * den = num / den * den + den := Nat.succ_mul ..
  obtain hlt | htie | hgt := Nat.lt_trichotomy (2 * (num % den)) den
  · rw [roundQuot_of_below_half hlt]; omega
  · obtain h | h := roundQuot_eq_div_or_succ tie num den <;> rw [h]
    · omega
    · omega
  · rw [roundQuot_of_above_half hgt]; omega

/-- Inside the representable interval the threshold function only rounds (R123). -/
theorem thsValue_eq_roundQuot {t : Nat} {g : FsRange} (hlo : 125 * fsG g ≤ 8 * t) (hhi : 8 * t ≤ 63 * (125 * fsG g))
    (tie : TieRule) : thsValue tie t g = roundQuot tie (8 * t) (125 * fsG g) := by
  have h1 := le_roundQuot (n := 1) (num := 8 * t) (thsStep_pos g) (by rwa [one_mul]) tie
  have h63 := roundQuot_le (thsStep_pos g) hhi tie
  rw [thsValue, clampNat_eq_max_min (by decide), min_eq_left h63, max_eq_right h1]

theorem eff8_eq (rv : Nat) (g : FsRange) : eff8 rv g = rv * (125 * fsG g) := by
  rw [eff8, mul_assoc, mul_comm (fsG g)]

/-- Settles O23: the definition, the greatest value, and the rounding error. -/
theorem effectiveThresholdBounds : Obligations.EffectiveThresholdBounds := by
  intro tie t g
  refine ⟨rfl, eff8_le (thsValue_le ..) g, fun hlo hhi => ?_⟩
  rw [eff8_eq, thsValue_eq_roundQuot hlo hhi]
  exact roundQuot_bounds (thsStep_pos g) tie

/-! ### What the CSR unit reads (R2) -/

/-- Two states agree on the CSR unit's own state and on the environment. -/
structure CsrAgree (s s' : State) : Prop where
  params : s'.params = s.params
  reg : s'.reg = s.reg
  fsCache : s'.fsCache = s.fsCache
  busPlan : s'.busPlan = s.busPlan
  freeCount : s'.freeCount = s.freeCount

/-- Two bus operations give the same answer and end in agreeing states. -/
inductive BusRes.Agree {α : Type} : BusRes α → BusRes α → Prop where
  | ok (a : α) {t t' : State} (h : CsrAgree t t') : Agree (.ok a t) (.ok a t')
  | err {t t' : State} (h : CsrAgree t t') : Agree (.err t) (.err t')
  | stop (f : Fault) : Agree (.stop f) (.stop f)

theorem BusRes.Agree.bind {α β : Type} {r r' : BusRes α} {k k' : α → State → BusRes β} (h : r.Agree r')
    (hk : ∀ a t t', CsrAgree t t' → (k a t).Agree (k' a t')) : (r.bind k).Agree (r'.bind k') := by
  cases h with
  | ok a h => exact hk a _ _ h
  | err h => exact .err h
  | stop f => exact .stop f

section
variable {s s' : State} (h : CsrAgree s s')
include h

theorem CsrAgree.busOutcome : s'.busOutcome = s.busOutcome := by rw [State.busOutcome, h.busPlan]; rfl

theorem CsrAgree.afterBus (o o' : Obs) : CsrAgree (s.afterBus o) (s'.afterBus o') :=
  { h with busPlan := congrArg List.tail h.busPlan }

theorem CsrAgree.drawFree : CsrAgree s.drawFree s'.drawFree := { h with freeCount := congrArg (· + 1) h.freeCount }

theorem CsrAgree.setReg (a v : Byte) : CsrAgree (s.setReg a v) (s'.setReg a v) :=
  { h with reg := by rw [setReg_reg, setReg_reg, h.reg] }

theorem CsrAgree.clearWake : CsrAgree s.clearWake s'.clearWake :=
  { h with reg := by rw [clearWake_reg, clearWake_reg, h.reg, h.params] }

theorem CsrAgree.memRead (a : Byte) (n : Nat) : (memRead a n s).Agree (memRead a n s') := by
  have hclears : s'.readClears a n = s.readClears a n := by simp only [State.readClears, h.params]
  by_cases hn : a.toNat + n ≤ 256
  · obtain ho | ho := s.busOutcome_cases
    · rw [memRead_of_ok hn ho, memRead_of_ok hn (h.busOutcome.trans ho), hclears, h.reg]
      refine .ok _ ?_
      split
      · exact (h.afterBus ..).clearWake
      · exact h.afterBus ..
    · rw [memRead_of_fail hn ho, memRead_of_fail hn (h.busOutcome.trans ho), hclears, h.freeCount]
      refine .err ?_
      split
      · exact (h.afterBus ..).drawFree.clearWake
      · exact (h.afterBus ..).drawFree
  · unfold Machine.memRead
    rw [if_pos (by omega), if_pos (by omega)]
    exact .stop _

theorem CsrAgree.readByte (a : Byte) : (readByte a s).Agree (readByte a s') :=
  (h.memRead a 1).bind fun _ _ _ h => .ok _ h

theorem CsrAgree.memWrite (a v : Byte) : (memWrite a v s).Agree (memWrite a v s') := by
  obtain ho | ho := s.busOutcome_cases
  · rw [memWrite_of_ok ho, memWrite_of_ok (h.busOutcome.trans ho)]
    exact .ok _ ((h.afterBus ..).setReg ..)
  · rw [memWrite_of_fail ho, memWrite_of_fail (h.busOutcome.trans ho), h.freeCount]
    exact .err ((h.afterBus ..).drawFree.setReg ..)

theorem CsrAgree.rmw (a mask v : Byte) : (rmw a mask v s).Agree (rmw a mask v s') :=
  (h.readByte a).bind fun _ _ _ h => (h.memWrite ..).bind fun _ _ _ h => .ok _ h

end

/-- Two commands answer next states with one response and the CSR unit's parts in agreement, or stop alike. -/
inductive SameAnswer : Result → Result → Prop where
  | next {t t' : State} (hresp : t'.resp = t.resp) (h : CsrAgree t t') : SameAnswer (.next t) (.next t')
  | fault (f : Fault) : SameAnswer (.fault f) (.fault f)

theorem sameAnswer_respond {s s' : State} (h : CsrAgree s s') (st : Status) (d : RespData) :
    SameAnswer (.next (respond st d s)) (.next (respond st d s')) := .next rfl { h with }

/-- Commands that end with agreeing bus operations give the same answer. -/
theorem BusRes.Agree.conclude {α : Type} {r r' : BusRes α} {k k' : α → State → State} (h : r.Agree r')
    (hk : ∀ a t t', CsrAgree t t' → SameAnswer (.next (k a t)) (.next (k' a t'))) :
    SameAnswer (r.conclude k) (r'.conclude k') := by
  cases h with
  | ok a h => exact hk a _ _ h
  | err h => exact .next rfl { h with }
  | stop f => exact .fault f

theorem sameAnswer_execCfgmode {s s' : State} (h : CsrAgree s s') (amode gmode : BitVec 4) :
    SameAnswer (execCfgmode amode gmode s) (execCfgmode amode gmode s') := by
  unfold execCfgmode
  rw [h.params]
  split
  · refine BusRes.Agree.conclude ?_ fun _ _ _ h => sameAnswer_respond h ..
    exact (h.rmw ..).bind fun _ _ _ h => (h.rmw ..).bind fun _ _ _ h => .ok _ h
  · exact sameAnswer_respond h ..

theorem sameAnswer_exec {s s' : State} (h : CsrAgree s s') {i : Instr}
    (hcsr : match i with
      | .regrd _ _ | .regwr _ _ | .regrmw _ _ _ | .cfgmode _ _ | .setfs _ | .setwkths _ _ _ | .wkint _ | .rdaccel
      | .drdyxl | .drdyg | .wkdet | .wksrc => True
      | _ => False) : SameAnswer (exec i s) (exec i s') := by
  cases i with
  | regrd addr len =>
    simp only [exec, execRegrd]
    split
    · exact (h.memRead ..).conclude fun _ _ _ h => sameAnswer_respond h ..
    · exact sameAnswer_respond h ..
  | regwr addr data => exact (h.memWrite ..).conclude fun _ _ _ h => sameAnswer_respond h ..
  | regrmw addr mask value => exact (h.rmw ..).conclude fun _ _ _ h => sameAnswer_respond h ..
  | cfgmode amode gmode => exact sameAnswer_execCfgmode h amode gmode
  | setfs g =>
    simp only [exec, execSetfs, h.params]
    exact (h.rmw ..).conclude fun _ _ _ h => .next rfl { h with fsCache := rfl }
  | setwkths thr hp dur =>
    simp only [exec, execSetwkths, h.params, h.fsCache]
    exact ((h.rmw ..).bind fun _ _ _ h => (h.rmw ..).bind fun _ _ _ h => h.rmw ..).conclude
      fun _ _ _ h => sameAnswer_respond h ..
  | wkint en =>
    simp only [exec, execWkint, h.params]
    exact (h.rmw ..).conclude fun _ _ _ h => sameAnswer_respond h ..
  | rdaccel =>
    simp only [exec, execRdaccel, h.params]
    exact (h.memRead ..).conclude fun _ _ _ h => sameAnswer_respond h ..
  | drdyxl | drdyg | wkdet | wksrc =>
    simp only [exec, execDrdyxl, execDrdyg, execWkdet, execWksrc, h.params]
    exact (h.readByte _).conclude fun _ _ _ h => sameAnswer_respond h ..
  | pulse | pollstep | attach | detach | mainchk | idle | sleep | shutdown => exact hcsr.elim

/-- Settles O46: the CSR unit's bus operations, and what it makes of their bytes, see the agreeing parts only. -/
theorem csrUnitNeverReadsTimerState : Obligations.CsrUnitNeverReadsTimerState := by
  intro i s s' t hcsr hp hreg hfs hplan hfree hx
  have hsame := sameAnswer_exec ⟨hp, hreg, hfs, hplan, hfree⟩ hcsr
  rw [hx] at hsame
  generalize exec i s' = r at hsame ⊢
  cases hsame with
  | next hresp h => exact ⟨_, rfl, hresp, h.reg, h.fsCache, h.busPlan⟩

end Sys2Proof.Machine
